-- ==== Sys2Proof/Word.lean ====
section
/-! DEFINITION. The block's word types (00_scope.md R6, R7: bit 0 is the least significant bit of every value). -/

namespace Sys2Proof

/-- A byte: a pattern, a select mask, RESULT, STATUS (`BYTE` = 8, R6). -/
abbrev Byte := BitVec 8

/-- A command word (`CMD_WIDTH` = 32, R6, R61). -/
abbrev Word := BitVec 32

/-- A frame, `pattern · select` (`CHAIN_BITS` = 16, R6, R11); also RENDER's value (`VALUE_WIDTH` = 16). -/
abbrev Half := BitVec 16

/-- `a · b` of two bytes: `a` in the high bits, `a*256 + b` (R7). -/
def joinBytes (a b : Byte) : Half := (a ++ b : BitVec 16)

end Sys2Proof
end

