-- ==== Sys2Proof/Syntax.lean ====
section
/-! DEFINITION. The block's commands, one constructor per row of spec/opcode_table.json (30_encoding.md R63). -/

namespace Sys2Proof

/-- A command with its operands, each of the width its format gives it (R64 to R68). Every term is a command some
word encodes: the field types admit exactly the values of the encoding's fields. -/
inductive Instr where
  /-- SEG `d`: digit to segment pattern (format S, R64, R76). 10 to 15 are legal and fault at execution (R72). -/
  | seg (d : BitVec 4)
  /-- DP `p`: light the decimal point of a pattern (format P, R65, R78). -/
  | dp (p : Byte)
  /-- SEND `seg, sel`: shift one frame out and commit it (format F, R66, R83). -/
  | send (seg sel : Byte)
  /-- RENDER `v` with the decimal-point enable `sd` and position `dpi` (format R, R67, R69, R95). -/
  | render (v : Half) (sd : Bool) (dpi : Fin 4)
  deriving DecidableEq, Repr

end Sys2Proof
end

