-- ==== Sys2Proof/WellFormed.lean ====
section
/-! DEFINITION. Which command words are legal (30_encoding.md R64 to R67, R70, R71), written as the opcode table's
match and mask and used by no part of the machine: the decoder of Decode.lean is checked against it. A term of
`Instr` needs no check of its own, since its field types admit what the fields of its format hold; the operand
ranges of the assembler are checked in Machine/Assembly.lean. -/

namespace Sys2Proof

/-- One row of the opcode table: a word is of this row when its bits under `mask` are `pattern`. -/
structure OpcodeRow where
  mnemonic : String
  mask : Word
  pattern : Word
  deriving DecidableEq, Repr

/-- `w` has the row's opcode and its reserved bits are all 0 (R70). -/
def OpcodeRow.covers (r : OpcodeRow) (w : Word) : Bool := w &&& r.mask == r.pattern

/-- Format S (R64). -/
def rowSeg : OpcodeRow := ⟨"SEG", 0xFFFFFFF0, 0x10000000⟩

/-- Format P (R65). -/
def rowDp : OpcodeRow := ⟨"DP", 0xFFFFFF00, 0x20000000⟩

/-- Format F (R66). -/
def rowSend : OpcodeRow := ⟨"SEND", 0xFFFF0000, 0x30000000⟩

/-- Format R (R67). -/
def rowRender : OpcodeRow := ⟨"RENDER", 0xFFF80000, 0x40000000⟩

/-- The opcode table (R63). -/
def opcodeRows : List OpcodeRow := [rowSeg, rowDp, rowSend, rowRender]

/-- The row a command's word belongs to. -/
def Instr.row : Instr → OpcodeRow
  | .seg _ => rowSeg
  | .dp _ => rowDp
  | .send _ _ => rowSend
  | .render _ _ _ => rowRender

/-- A legal word: some row covers it (R71). Every other word is illegal. -/
def legalWord (w : Word) : Bool := opcodeRows.any fun r => r.covers w

end Sys2Proof
end

