-- ==== Sys2Proof/Decode.lean ====
section
/-! DEFINITION. The decoder of 30_encoding.md R62 (opcode, then reserved bits, then operands), total on every
32-bit word, and the encoder of R64 to R67. -/

namespace Sys2Proof

/-- Why a word is illegal. Either way its acceptance raises IllegalCommand (60_exceptions.md R106). -/
inductive DecodeError where
  /-- The opcode is 0x0 or 0x5 to 0xF (R71). -/
  | illegalOpcode (op : BitVec 4)
  /-- The opcode is 0x1 to 0x4 and a reserved bit is set (R70). -/
  | reservedBits (op : BitVec 4)
  deriving DecidableEq, Repr

/-- `op = w[31:28]` (R61). -/
def opcode (w : Word) : BitVec 4 := w.extractLsb' 28 4

/-- Format S: `w[27:4]` reserved, `d = w[3:0]` (R64, R68). -/
def decodeSeg (w : Word) : Except DecodeError Instr :=
  if w.extractLsb' 4 24 = 0 then .ok (.seg (w.extractLsb' 0 4)) else .error (.reservedBits 0x1)

/-- Format P: `w[27:8]` reserved, `p = w[7:0]` (R65, R68). -/
def decodeDp (w : Word) : Except DecodeError Instr :=
  if w.extractLsb' 8 20 = 0 then .ok (.dp (w.extractLsb' 0 8)) else .error (.reservedBits 0x2)

/-- Format F: `w[27:16]` reserved, `seg = w[15:8]`, `sel = w[7:0]` (R66, R68). -/
def decodeSend (w : Word) : Except DecodeError Instr :=
  if w.extractLsb' 16 12 = 0 then .ok (.send (w.extractLsb' 8 8) (w.extractLsb' 0 8))
  else .error (.reservedBits 0x3)

/-- Format R: `w[27:19]` reserved, `sd = w[18]`, `dpi = w[17:16]`, `v = w[15:0]` (R67, R68). -/
def decodeRender (w : Word) : Except DecodeError Instr :=
  if w.extractLsb' 19 9 = 0 then
    .ok (.render (w.extractLsb' 0 16) (w.getLsbD 18) (w.extractLsb' 16 2).toFin)
  else .error (.reservedBits 0x4)

/-- The command a word stands for, or why it is illegal (R62, R63). -/
def decode (w : Word) : Except DecodeError Instr :=
  if opcode w = 0x1 then decodeSeg w
  else if opcode w = 0x2 then decodeDp w
  else if opcode w = 0x3 then decodeSend w
  else if opcode w = 0x4 then decodeRender w
  else .error (.illegalOpcode (opcode w))

/-- The word of a command: opcode, reserved zeros, operand fields, from bit 31 down (R64 to R67). -/
def encode : Instr → Word
  | .seg d => (0x1#4 ++ 0#24 ++ d : BitVec 32)
  | .dp p => (0x2#4 ++ 0#20 ++ p : BitVec 32)
  | .send seg sel => (0x3#4 ++ 0#12 ++ seg ++ sel : BitVec 32)
  | .render v sd dpi => (0x4#4 ++ 0#9 ++ BitVec.ofBool sd ++ (BitVec.ofFin dpi : BitVec 2) ++ v : BitVec 32)

/-- The 32-bit command word whose low `nbits` bits are those of `w` and whose other bits are 0. -/
def tableWord (nbits w : Nat) : Word := BitVec.ofNat 32 (w % 2 ^ nbits)

/-- The command the decoder reads from a word as spec/opcode_table.json numbers its bits. A command word is parallel
and has no byte order (20_memory.md R48), so bit `i` of the table is bit `i` of the word. -/
def decodeTableWord (nbits w : Nat) : Option Instr := (decode (tableWord nbits w)).toOption

end Sys2Proof
end

