-- ==== Sys2Proof/Machine/Operands.lean ====
section
/-! DEFINITION. The constant ROMs (10_state.md R25, R26), the two pure functions of the digit encoder (40_encoder.md
R76, R78), and the frame of a RENDER position (42_scan.md R96, R97). -/

namespace Sys2Proof.Machine

/-- `ROM_PAT`, the digit-pattern table (R25). -/
def romPat : Vector Byte 10 := #v[0xC0, 0xF9, 0xA4, 0xB0, 0x99, 0x92, 0x82, 0xF8, 0x80, 0x90]

/-- `ROM_SEL`, the digit-select table, positions left to right (R26). -/
def romSel : Vector Byte 4 := #v[0x01, 0x02, 0x04, 0x08]

/-- `patternFor(d)`: the digit's pattern, none (InvalidDigit) for 10 to 15 (R76). -/
def patternFor (d : BitVec 4) : Option Byte := romPat[d.toNat]?

/-- `withDecimalPoint(p) = p & 0x7F` (R78). -/
def withDecimalPoint (p : Byte) : Byte := p &&& 0x7F

/-- `digit(v, i) = (v / 10^(3-i)) mod 10` (R96). -/
def digit (v : Half) (i : Fin 4) : Fin 10 := ⟨v.toNat / 10 ^ (3 - i.val) % 10, Nat.mod_lt _ (by decide)⟩

/-- The segment byte of position `i`: the digit's pattern, its decimal point lit when `sd` and `i = dpi` (R97). -/
def renderPattern (v : Half) (sd : Bool) (dpi i : Fin 4) : Byte :=
  let p := romPat[digit v i]
  if sd = true ∧ i = dpi then withDecimalPoint p else p

/-- The frame of position `i`: the segment byte first, then the select byte (R97). -/
def renderFrame (v : Half) (sd : Bool) (dpi i : Fin 4) : Half :=
  joinBytes (renderPattern v sd dpi i) romSel[i]

end Sys2Proof.Machine
end

