-- ==== Sys2Proof/Config.lean ====
section
/-! DEFINITION. The parameters of 00_scope.md R6. The OPEN ones are constants with no body, so nothing proved can rest on a
value of theirs (log entry 10). -/

namespace Sys2Proof.Config

/-- `N_DIGITS` (R6). -/
def nDigits : Nat := 4

/-- `CHAIN_BITS` (R6). -/
def chainBits : Nat := 16

/-- `T_SETTLE` in milliseconds, a lower bound (R6, R133). -/
def tSettleMs : Nat := 2

/-- `F_CLK` in hertz: OPEN (R6, D28). No step reads it. -/
opaque fClkHz : Nat

/-- `T_STEP` in nanoseconds, the least time between two pin writes: OPEN (R6, R132, D18). No step reads it. -/
opaque tStepNs : Nat

/-- How many cycles a settle hold lasts beyond its lower bound: OPEN (R6, R133, D17). No step reads it. -/
opaque settleSlack : Nat

/-- `BASE`, the base address of a bus wrapper: OPEN (R47, D27). The block has no address, so no step reads it. -/
opaque busBase : Nat

/-- `SETTLE_CYCLES`: any number at least `ceil(T_SETTLE * F_CLK)` (R6, R113, D17). -/
def settleCycles : Nat := (tSettleMs * fClkHz + 999) / 1000 + settleSlack

end Sys2Proof.Config
end

