-- ==== Sys2Proof/Machine/State.lean ====
section
/-! DEFINITION. The machine's state: the block's record (10_state.md R23), the host's coming inputs, the pin trace,
the host's record of its reads, and the reference receiver; its reset (R34). -/

namespace Sys2Proof.Machine

/-- What the block's next step does (R29). -/
inductive Phase where
  /-- IDLE: accept a command if one is offered. -/
  | idle
  /-- L0: drive LATCH low. -/
  | l0
  /-- DSET: drive DATA to `frame[k]`. -/
  | dset
  /-- CH: drive CLOCK high. -/
  | ch
  /-- CL: drive CLOCK low, then take the next bit or finish the bits. -/
  | cl
  /-- L1: drive LATCH high. -/
  | l1
  /-- SETTLE: end a RENDER settle hold. -/
  | settle
  deriving DecidableEq, Repr

/-- Which command is in progress (R30). -/
inductive Mode where
  | send
  | render
  deriving DecidableEq, Repr

/-- The three output lines (R20, R22). -/
inductive Line where
  | data
  | clock
  | latch
  deriving DecidableEq, Repr

/-- One event of the pin trace (20_memory.md R50). -/
inductive Event where
  /-- The line was written to a level, true for high, whether or not it had that level before. -/
  | pin (l : Line) (b : Bool)
  /-- All three lines went to 0 in one reset step. -/
  | reset
  deriving DecidableEq, Repr

/-- What the outside world presents to the block in one step: the input ports of 10_state.md R20 and the host's reads
of the output ports (60_exceptions.md R117). The default offers nothing. -/
structure Inputs where
  rst : Bool := false
  cmdValid : Bool := false
  cmd : Word := 0
  readResult : Bool := false
  readStatus : Bool := false
  deriving DecidableEq, Repr

/-- What a read of an output port gave the host. -/
inductive HostRead where
  | result (v : Byte)
  /-- A read of `result` while RV = 0: the host error of 60_exceptions.md R108, recorded with no value. -/
  | noResult
  | status (v : Byte)
  deriving DecidableEq, Repr

/-- The reference receiver's registers (20_memory.md R58; not part of the block, log entry 6). -/
structure Receiver where
  sr : Half
  out : Half
  deriving DecidableEq, Repr

/-- The machine's state. The first fifteen fields are the block's whole state (R23). -/
structure State where
  phase : Phase
  mode : Mode
  /-- The frame being shifted out. -/
  frame : Half
  /-- Index of the next frame bit to drive. -/
  k : Fin 16
  /-- RENDER's current position. -/
  pos : Fin 4
  /-- RENDER's latched value, decimal-point enable and decimal-point position. -/
  val : Half
  sd : Bool
  dpi : Fin 4
  /-- RESULT (R27). -/
  result : Byte
  /-- STATUS bits 1, 2 and 3 (R28). -/
  rv : Bool
  fid : Bool
  fic : Bool
  /-- The levels of the lines Data, Clock and Latch (R22). -/
  data : Bool
  clock : Bool
  latch : Bool
  /-- The inputs of the coming steps, the coming step's first; past its end nothing is offered (log entry 1). -/
  env : List Inputs
  /-- The pin trace, oldest event first (20_memory.md R50). -/
  trace : List Event
  /-- What the host has read, oldest first (log entry 4). -/
  reads : List HostRead
  /-- The reference receiver. -/
  rx : Receiver
  deriving DecidableEq, Repr

/-- Why a step stops: it never does, so there is no constructor. The block's own faults are the flags FID and FIC
(60_exceptions.md R109, R112), and the host error of R108 is recorded in `reads`; both make the run faulted
(70_reset_and_hazards.md R135; `State.faulted` of Safety.lean). -/
inductive Fault where
  deriving DecidableEq, Repr

/-- Why a command has no meaning. -/
inductive Refusal where
  /-- Raised by an arm of `exec` for a command that has no meaning yet; no arm raises it now. Safe. -/
  | notModelled (mnemonic : String)
  deriving DecidableEq, Repr

/-- The machine right after a reset step (R34, 70_reset_and_hazards.md R122): nothing is offered, the trace holds the
one RESET event, and the receiver, whose power-up contents the spec leaves unspecified, is all zero (DESIGN CHOICE,
log entry 7; log entries 1, 4, 8). `State.powerUp` of Safety.lean is the same state over any receiver. -/
def State.reset : State where
  phase := .idle
  mode := .send
  frame := 0x0000
  k := 0
  pos := 0
  val := 0x0000
  sd := false
  dpi := 0
  result := 0xFF
  rv := false
  fid := false
  fic := false
  data := false
  clock := false
  latch := false
  env := []
  trace := [.reset]
  reads := []
  rx := ⟨0x0000, 0x0000⟩

end Sys2Proof.Machine
end

