-- ==== Sys2Proof/Machine/Flags.lean ====
section
/-! DEFINITION. The STATUS register and the output ports (10_state.md R20 to R22, R27, R28). -/

namespace Sys2Proof.Machine

/-- The inputs of the coming step; past the end of the schedule nothing is offered (log entry 1). -/
def State.inputs (s : State) : Inputs := s.env.headD {}

/-- BUSY: computed, not stored (R28). -/
def State.busy (s : State) : Bool := s.phase != .idle

/-- STATUS: bits 7:4 are hard-wired 0, then FIC, FID, RV and BUSY in bits 3 to 0 (R28). -/
def State.status (s : State) : Byte :=
  (0#4 ++ BitVec.ofBool s.fic ++ BitVec.ofBool s.fid ++ BitVec.ofBool s.rv ++ BitVec.ofBool s.busy : BitVec 8)

/-- `cmd_ready = (phase = IDLE) and (rst = 0)` (R21). -/
def State.cmdReady (s : State) : Bool := !s.busy && !s.inputs.rst

/-- The port `result` shows RESULT whether or not it is valid (R22, R108). -/
def State.resultPort (s : State) : Byte := s.result

/-- The ports `sr_data`, `sr_clock`, `sr_latch` are driven at the level held, with no inversion (R22). -/
def State.linePort (s : State) : Line → Bool
  | .data => s.data
  | .clock => s.clock
  | .latch => s.latch

end Sys2Proof.Machine
end

