-- ==== Sys2Proof/Machine/Receiver.lean ====
section
/-! DEFINITION. The reference receiver (20_memory.md R58): a 16-bit chain that shifts on a rise of CLOCK and commits
on a rise of LATCH. It observes the lines and is not part of the block (log entry 6). -/

namespace Sys2Proof.Machine

/-- A rising edge of CLOCK: `SR <- SR[14:0] · DATA`. -/
def Receiver.shift (r : Receiver) (data : Bool) : Receiver :=
  { r with sr := (r.sr.extractLsb' 0 15 ++ BitVec.ofBool data : BitVec 16) }

/-- A rising edge of LATCH: `OUT <- SR`. -/
def Receiver.commit (r : Receiver) : Receiver := { r with out := r.sr }

/-- The receiver after one pin write, given the levels DATA, CLOCK and LATCH had before it. -/
def Receiver.onPin (r : Receiver) (data clock latch : Bool) (l : Line) (b : Bool) : Receiver :=
  match l with
  | .data => r
  | .clock => if b && !clock then r.shift data else r
  | .latch => if b && !latch then r.commit else r

/-- The segment byte the display shows, active-low, bit 7 the decimal point (R12, R58). -/
def Receiver.segments (r : Receiver) : Byte := r.out.extractLsb' 8 8

/-- The digit-select byte, active-high (R58, D31). -/
def Receiver.select (r : Receiver) : Byte := r.out.extractLsb' 0 8

/-- The digit on select line `i` is lit (R58). -/
def Receiver.digitLit (r : Receiver) (i : Nat) : Bool := r.select.getLsbD i

/-- Segment line `j` is on: its bit is 0 (R12). Line 7 is the decimal point; the source names no other (R13). -/
def Receiver.segmentOn (r : Receiver) (j : Fin 8) : Bool := !r.segments.getLsbD j

end Sys2Proof.Machine
end

