-- ==== Sys2Proof/Machine/Ops.lean ====
section
/-! DEFINITION. The named operations every step is written with: pin writes, raising a fault, register writes, the
reset step, and what the host's side of a step does. -/

namespace Sys2Proof.Machine

/-- `pin P <- b`: exactly one line written and one event appended (00_scope.md R9, 20_memory.md R50). The receiver
sees the write against the levels before it (R58). -/
def State.writePin (s : State) (l : Line) (b : Bool) : State :=
  { s with
    data := if l = .data then b else s.data
    clock := if l = .clock then b else s.clock
    latch := if l = .latch then b else s.latch
    trace := s.trace ++ [.pin l b]
    rx := s.rx.onPin s.data s.clock s.latch l b }

/-- `phase <- p` (R29). -/
def State.setPhase (s : State) (p : Phase) : State := { s with phase := p }

/-- `k <- i` (R30). -/
def State.setK (s : State) (i : Fin 16) : State := { s with k := i }

/-- `mode <- m` (R30). -/
def State.setMode (s : State) (m : Mode) : State := { s with mode := m }

/-- `pos <- p` (R30). -/
def State.setPos (s : State) (p : Fin 4) : State := { s with pos := p }

/-- `val <- v ; sd <- sd ; dpi <- dpi`: RENDER's operands are latched (R30, 42_scan.md R95). -/
def State.latchOperands (s : State) (v : Half) (sd : Bool) (dpi : Fin 4) : State :=
  { s with val := v, sd := sd, dpi := dpi }

/-- Start a frame: latch it, point at its first bit, and go to L0 (41_framer.md R83, 42_scan.md R95, R100). -/
def State.startFrame (s : State) (f : Half) : State := { s with frame := f, k := 15, phase := .l0 }

/-- `RESULT <- v ; RV <- 1` (10_state.md R27; only SEG and DP use it). -/
def State.writeResult (s : State) (v : Byte) : State := { s with result := v, rv := true }

/-- The block's two faults, each with the value the pseudocode raises it with (00_scope.md R9). -/
inductive Raised where
  | invalidDigit (d : BitVec 4)
  | illegalCommand (w : Word)
  deriving DecidableEq, Repr

/-- Raise a fault: set its sticky flag and nothing else. There is no trap, nothing is saved, and only the flag is
recorded, not the digit or the word (60_exceptions.md R105, R106, R109). -/
def State.raise (s : State) : Raised → State
  | .invalidDigit _ => { s with fid := true }
  | .illegalCommand _ => { s with fic := true }

/-- The reset step: every field of R23 takes its value of R34 and the trace gains one RESET event. The receiver, the
schedule and the host's record are outside the block (70_reset_and_hazards.md R122, R127). -/
def State.applyReset (s : State) : State :=
  { State.reset with env := s.env, trace := s.trace ++ [.reset], reads := s.reads, rx := s.rx }

/-- What a read of `result` gives the host: the port's value while RV = 1, and no value while RV = 0, although the port
shows RESULT as always (60_exceptions.md R108). -/
def State.resultRead (s : State) : HostRead := if s.rv then .result s.resultPort else .noResult

/-- What a step's reads of `result` and `status` give the host. -/
def State.readValues (s : State) (i : Inputs) : List HostRead :=
  (if i.readResult then [s.resultRead] else []) ++ (if i.readStatus then [.status s.status] else [])

/-- The host's side of a step: its reads are recorded and the step's inputs leave the schedule. No field of the block
changes (20_memory.md R49). -/
def State.takeInputs (s : State) : State :=
  { s with env := s.env.tail, reads := s.reads ++ s.readValues s.inputs }

end Sys2Proof.Machine
end

