-- ==== Sys2Proof/Machine/Encoder.lean ====
section
/-! DEFINITION. The digit encoder's commands, SEG and DP (40_encoder.md). Each completes in its acceptance step
(R80). -/

namespace Sys2Proof.Machine

/-- SEG: RESULT gets the digit's pattern, or InvalidDigit is raised (R76). -/
def execSeg (d : BitVec 4) (s : State) : Host.Outcome State Fault Refusal :=
  match patternFor d with
  | some p => .next (s.writeResult p)
  | none => .next (s.raise (.invalidDigit d))

/-- DP: RESULT gets the pattern with its decimal point lit; RESULT is not read (R78). -/
def execDp (p : Byte) (s : State) : Host.Outcome State Fault Refusal :=
  .next (s.writeResult (withDecimalPoint p))

end Sys2Proof.Machine
end

