-- ==== Sys2Proof/Machine/Framer.lean ====
section
/-! DEFINITION. The serial framer: SEND's acceptance and the five frame steps, one pin write each (41_framer.md). -/

namespace Sys2Proof.Machine

/-- SEND's acceptance: the frame is latched and no pin is written (R83). -/
def execSend (seg sel : Byte) (s : State) : Host.Outcome State Fault Refusal :=
  .next ((s.setMode .send).startFrame (joinBytes seg sel))

/-- Step L0: "drop latch low" (R84). -/
def stepL0 (s : State) : State := (s.writePin .latch false).setPhase .dset

/-- Step DSET: "set data line to bit value" (R85). -/
def stepDset (s : State) : State := (s.writePin .data (s.frame.getLsbD s.k.val)).setPhase .ch

/-- Step CH: the clock pulse rises (R86). -/
def stepCh (s : State) : State := (s.writePin .clock true).setPhase .cl

/-- Step CL: the clock pulse falls; then the next bit, or the end of the bits (R87). -/
def stepCl (s : State) : State :=
  let t := s.writePin .clock false
  if 0 < s.k then (t.setK (s.k - 1)).setPhase .dset else t.setPhase .l1

/-- Where step L1 leads (R88, R99). -/
def afterCommit : Mode → Phase
  | .send => .idle
  | .render => .settle

/-- Step L1: "raise latch high to commit both bytes" (R88). -/
def stepL1 (s : State) : State := (s.writePin .latch true).setPhase (afterCommit s.mode)

end Sys2Proof.Machine
end

