-- ==== Sys2Proof/Machine/Scan.lean ====
section
/-! DEFINITION. The four-digit scan: RENDER's acceptance and the settle-end step (42_scan.md). -/

namespace Sys2Proof.Machine

/-- RENDER's acceptance: the operands and the frame of position 0 are latched and no pin is written (R95). -/
def execRender (v : Half) (sd : Bool) (dpi : Fin 4) (s : State) : Host.Outcome State Fault Refusal :=
  .next ((((s.latchOperands v sd dpi).setPos 0).setMode .render).startFrame (renderFrame v sd dpi 0))

/-- The settle-end step: the next position's frame, or the end of the RENDER. It writes no pin (R100). It is enabled
in every state with phase = SETTLE (60_exceptions.md R113; log entry 3). -/
def stepSettle (s : State) : State :=
  if s.pos < 3 then (s.setPos (s.pos + 1)).startFrame (renderFrame s.val s.sd s.dpi (s.pos + 1))
  else s.setPhase .idle

end Sys2Proof.Machine
end

