-- ==== Sys2Proof/Machine/Dispatch.lean ====
section
/-! DEFINITION. One arm per command: what performing an accepted command does (30_encoding.md R62). -/

namespace Sys2Proof.Machine

def exec (i : Instr) (s : State) : Host.Outcome State Fault Refusal :=
  match i with
  | .seg d => Sys2Proof.Machine.execSeg d s
  | .dp p => Sys2Proof.Machine.execDp p s
  | .send seg sel => Sys2Proof.Machine.execSend seg sel s
  | .render v sd dpi => Sys2Proof.Machine.execRender v sd dpi s

end Sys2Proof.Machine
end

