-- ==== Sys2Proof/Machine/Cycle.lean ====
section
/-! DEFINITION. What one step does: the host's reads, then reset, acceptance, or the sequencer's step (00_scope.md
R10). Step.lean only calls it. -/

namespace Sys2Proof.Machine

/-- Acceptance of a word: the command it encodes is performed, or IllegalCommand is raised (30_encoding.md R62). -/
def accept (w : Word) (s : State) : Host.Outcome State Fault Refusal :=
  match decode w with
  | .ok i => exec i s
  | .error _ => .next (s.raise (.illegalCommand w))

/-- The block's step under the inputs `i`. Reset takes precedence (70_reset_and_hazards.md R123); a command is accepted
exactly in IDLE (10_state.md R21); with nothing offered in IDLE the block does not change (R62; log entry 2). -/
def blockStep (i : Inputs) (s : State) : Host.Outcome State Fault Refusal :=
  if i.rst then .next s.applyReset
  else match s.phase with
    | .idle => if i.cmdValid then accept i.cmd s else .next s
    | .l0 => .next (stepL0 s)
    | .dset => .next (stepDset s)
    | .ch => .next (stepCh s)
    | .cl => .next (stepCl s)
    | .l1 => .next (stepL1 s)
    | .settle => .next (stepSettle s)

/-- One step: the host's reads, which see the state before it, and then the block's step under the same inputs. A read
while RV = 0 is no fault of the block, which takes its step as always (60_exceptions.md R108). -/
def hostCycle (s : State) : Host.Outcome State Fault Refusal := blockStep s.inputs s.takeInputs

/-- The machine in IDLE with the word `w` offered in the coming step and nothing else disturbed. -/
def State.offerNext (s : State) (w : Word) : State :=
  { s with phase := .idle, env := { cmdValid := true, cmd := w } :: s.env }

end Sys2Proof.Machine
end

