-- ==== Sys2Proof/Machine/Step.lean ====
section
/-! DEFINITION. The machine's step, and the host's way to have a given word run next. -/

namespace Sys2Proof.Machine

/-- One step of the machine (00_scope.md R10). -/
def step (s : State) : Host.Outcome State Fault Refusal := hostCycle s

/-- `s` with the table's word offered on the command port in the coming step: the block fetches nothing, its commands
come from the host one word at a time (10_state.md R31; log entry 9). -/
def State.withFetchWord (s : State) (nbits w : Nat) : State := s.offerNext (tableWord nbits w)

end Sys2Proof.Machine
end

