-- ==== Sys2Proof/Machine/Assembly.lean ====
section
/-! DEFINITION. The spec's assembler and disassembler (30_encoding.md R74, R75). No part of the machine uses them. -/

namespace Sys2Proof.Machine

/-- The spellings of RENDER's decimal-point operand (R74, R75). -/
inductive PointSpelling where
  /-- `RENDER v` -/
  | omitted
  /-- `RENDER v, dp=i` -/
  | dp (i : Nat)
  /-- `RENDER v, dp=-1` -/
  | dpMinusOne
  /-- `RENDER v, nodp` -/
  | nodp
  deriving DecidableEq, Repr

/-- One command as written, its operands not yet checked (R74). -/
inductive Source where
  | seg (d : Nat)
  | dp (p : Nat)
  | send (seg sel : Nat)
  | render (v : Nat) (point : PointSpelling)
  | word (w : Nat)
  deriving DecidableEq, Repr

/-- A decimal-point position in 0 to 3; the other spellings have no operand. -/
def PointSpelling.inRange : PointSpelling → Bool
  | .dp i => i ≤ 3
  | _ => true

/-- Every operand is in its range (R74). -/
def Source.inRange : Source → Bool
  | .seg d => d ≤ 15
  | .dp p => p ≤ 255
  | .send a b => a ≤ 255 && b ≤ 255
  | .render v point => v ≤ 65535 && point.inRange
  | .word w => w ≤ 0xFFFFFFFF

/-- What a decimal-point spelling adds to a RENDER word: `1<<18 | i<<16`, or nothing. -/
def PointSpelling.bits : PointSpelling → Nat
  | .dp i => 1 <<< 18 ||| i <<< 16
  | _ => 0

/-- The word column of R74's table. -/
def Source.value : Source → Nat
  | .seg d => 0x10000000 ||| d
  | .dp p => 0x20000000 ||| p
  | .send a b => 0x30000000 ||| a <<< 8 ||| b
  | .render v point => 0x40000000 ||| point.bits ||| v
  | .word w => w

/-- The command's word; an operand outside its range is refused, never truncated (R74). -/
def Source.assemble (c : Source) : Option Word := if c.inRange then some (BitVec.ofNat 32 c.value) else none

/-- A RENDER word as written: with `sd = 0` and `dpi ≠ 0` it is printed as `.word` (R75). -/
def disassembleRender (w : Word) (v : Half) (sd : Bool) (dpi : Fin 4) : Source :=
  if sd then .render v.toNat (.dp dpi.val)
  else if dpi = 0 then .render v.toNat .omitted
  else .word w.toNat

/-- The command a word is printed as; an illegal word is printed as `.word` (R74, R75). -/
def disassemble (w : Word) : Source :=
  match decode w with
  | .ok (.seg d) => .seg d.toNat
  | .ok (.dp p) => .dp p.toNat
  | .ok (.send seg sel) => .send seg.toNat sel.toNat
  | .ok (.render v sd dpi) => disassembleRender w v sd dpi
  | .error _ => .word w.toNat

/-- White space between the parts of a line (log entry 11). -/
def isBlank (c : Char) : Bool := c = ' ' || c = '\t' || c = '\r'

/-- A text without the white space at its two ends. -/
def trimBlanks (cs : List Char) : List Char := ((cs.dropWhile isBlank).reverse.dropWhile isBlank).reverse

/-- A text cut at every `sep`. -/
def splitAtChar (sep : Char) : List Char → List (List Char)
  | [] => [[]]
  | c :: cs =>
    match splitAtChar sep cs with
    | [] => [[c]]
    | h :: t => if c = sep then [] :: h :: t else (c :: h) :: t

/-- The value of a digit, hexadecimal ones in either case (DESIGN CHOICE, log entry 11). -/
def digitValue (base : Nat) (c : Char) : Option Nat :=
  let n := c.toNat
  let v := if '0'.toNat ≤ n ∧ n ≤ '9'.toNat then some (n - '0'.toNat)
    else if 'a'.toNat ≤ n ∧ n ≤ 'f'.toNat then some (n - 'a'.toNat + 10)
    else if 'A'.toNat ≤ n ∧ n ≤ 'F'.toNat then some (n - 'A'.toNat + 10)
    else none
  v.filter (· < base)

/-- The value of a run of digits read after `acc`. -/
def digitsValue (base : Nat) : Nat → List Char → Option Nat
  | acc, [] => some acc
  | acc, c :: cs => (digitValue base c).bind fun d => digitsValue base (acc * base + d) cs

/-- An operand, "in decimal or in hexadecimal with a `0x` prefix" (R74). -/
def parseNumber : List Char → Option Nat
  | [] => none
  | ['0', 'x'] => none
  | '0' :: 'x' :: cs => digitsValue 16 0 cs
  | cs => digitsValue 10 0 cs

/-- RENDER's second operand (R74, R75). -/
def parsePoint : List Char → Option PointSpelling
  | ['n', 'o', 'd', 'p'] => some .nodp
  | ['d', 'p', '=', '-', '1'] => some .dpMinusOne
  | 'd' :: 'p' :: '=' :: cs => (parseNumber cs).map .dp
  | _ => none

/-- A mnemonic and its operands (R74). -/
def parseCommand (mnemonic : List Char) (operands : List (List Char)) : Option Source :=
  match mnemonic, operands with
  | ['S', 'E', 'G'], [d] => (parseNumber d).map .seg
  | ['D', 'P'], [p] => (parseNumber p).map .dp
  | ['S', 'E', 'N', 'D'], [a, b] => (parseNumber a).bind fun x => (parseNumber b).map (.send x)
  | ['R', 'E', 'N', 'D', 'E', 'R'], [v] => (parseNumber v).map (.render · .omitted)
  | ['R', 'E', 'N', 'D', 'E', 'R'], [v, p] => (parseNumber v).bind fun x => (parsePoint p).map (.render x)
  | ['.', 'w', 'o', 'r', 'd'], [w] => (parseNumber w).map .word
  | _, _ => none

/-- One line: a comment after `;` is dropped; `some none` is a line with no command, `none` a line that is refused. -/
def parseLine (line : List Char) : Option (Option Source) :=
  let body := trimBlanks (line.takeWhile (· ≠ ';'))
  if body = [] then some none
  else
    let mnemonic := body.takeWhile fun c => !isBlank c
    let operands := (splitAtChar ',' (body.dropWhile fun c => !isBlank c)).map trimBlanks
    (parseCommand mnemonic operands).map some

/-- The words of a text of one command per line, or none when a line is refused (R74). -/
def assembleText (text : List Char) : Option (List Word) :=
  ((splitAtChar '\n' text).mapM fun line =>
    (parseLine line).bind fun c? =>
      match c? with
      | none => some []
      | some c => c.assemble.map fun w => [w]).map List.flatten

/-- A number as it is printed, in decimal. -/
def printNumber (n : Nat) : List Char := Nat.toDigits 10 n

/-- A command as it is printed (R74). -/
def Source.print : Source → List Char
  | .seg d => ['S', 'E', 'G', ' '] ++ printNumber d
  | .dp p => ['D', 'P', ' '] ++ printNumber p
  | .send a b => ['S', 'E', 'N', 'D', ' '] ++ printNumber a ++ [',', ' '] ++ printNumber b
  | .render v point =>
    ['R', 'E', 'N', 'D', 'E', 'R', ' '] ++ printNumber v ++
      match point with
      | .omitted => []
      | .dp i => [',', ' ', 'd', 'p', '='] ++ printNumber i
      | .dpMinusOne => [',', ' ', 'd', 'p', '=', '-', '1']
      | .nodp => [',', ' ', 'n', 'o', 'd', 'p']
  | .word w => ['.', 'w', 'o', 'r', 'd', ' '] ++ printNumber w

end Sys2Proof.Machine
end

