-- ==== Sys2Proof/Safety.lean ====
section
/-! DEFINITION. The terms claims use: where runs start and end and what is observed of them, faulted runs, undisturbed
stretches, the traces the spec writes out, the receiver replayed from the trace, and the machine's invariants. -/

namespace Sys2Proof.Machine

/-! ### Runs -/

/-- `n` steps of the machine, stopping where a step stops. -/
def runSteps : Nat → State → Host.Outcome State Fault Refusal
  | 0, s => .next s
  | n + 1, s =>
    match step s with
    | .next t => runSteps n t
    | .fault r => .fault r
    | .refused r => .refused r

/-- Where a run starts: right after a reset step, over any receiver contents (70_reset_and_hazards.md R127, 20_memory.md
R58) and with any coming inputs. -/
def State.powerUp (r : Receiver) (env : List Inputs) : State := { State.reset with rx := r, env := env }

/-- What is observed of a run at its end (R135). -/
structure Observation where
  trace : List Event
  result : Byte
  rv : Bool
  fid : Bool
  fic : Bool
  deriving DecidableEq, Repr

def State.observe (s : State) : Observation := ⟨s.trace, s.result, s.rv, s.fid, s.fic⟩

/-- The host has read `result` while RV = 0: the host error of 60_exceptions.md R108. The record is the host's, so no
step of the block clears it, a reset included (log entry 5). -/
def State.hostErred (s : State) : Bool := s.reads.contains .noResult

/-- A state that makes its run faulted: FID = 1, FIC = 1 or a host error (70_reset_and_hazards.md R135, 60_exceptions.md
R112). -/
def State.faulted (s : State) : Bool := s.fid || s.fic || s.hostErred

/-- "A run ends when `phase = IDLE` and the host offers no further command" (R135). A reset or a read still to come does
not keep the run from ending: the rule names commands only (DEDUCED, log entry 14). -/
def State.runEnded (s : State) : Bool := s.phase == .idle && s.env.all fun i => !i.cmdValid

/-- With no command offered any more, whether one of the coming inputs reads `result` while RV = 0, given RV now: only a
reset still changes RV. -/
def invalidReadToCome : Bool → List Inputs → Bool
  | _, [] => false
  | rv, i :: es => (i.readResult && !rv) || invalidReadToCome (rv && !i.rst) es

/-- A good final state: the run has ended, it is not faulted (R112, R135), and no host read still to come is the host
error of R108. That the reads after the last command count is the model's choice (DESIGN CHOICE, log entry 14). -/
def State.goodFinal (s : State) : Bool := s.runEnded && !s.faulted && !invalidReadToCome s.rv s.env

/-- The state in which the run from `s` ends: the first one that meets R135, if the run comes to it within `n` steps. -/
def endOfRun : Nat → State → Option State
  | 0, s => if s.runEnded then some s else none
  | n + 1, s =>
    if s.runEnded then some s
    else match step s with
      | .next t => endOfRun n t
      | .fault _ => none
      | .refused _ => none

/-- What is observed of the run from `s` at its end (R135). -/
def runObservation (n : Nat) (s : State) : Option Observation := (endOfRun n s).map State.observe

/-- The run from `s` ends within `n` steps, in a good final state, and no state of it is faulted: "a faulted run stays
faulted" (D8), also through a reset inside it, although R112 asks for the flags at the end only (DEDUCED, log
entry 14). -/
def goodRun : Nat → State → Bool
  | 0, s => s.goodFinal
  | n + 1, s =>
    if s.runEnded then s.goodFinal
    else !s.faulted && match step s with
      | .next t => goodRun n t
      | .fault _ => false
      | .refused _ => false

/-- "A command is accepted in a step exactly when `cmd_valid = 1` and `cmd_ready = 1`" (10_state.md R21). -/
def State.acceptsWord (s : State) : Bool := s.inputs.cmdValid && s.cmdReady

/-- The coming step accepts a word that encodes the command `i`. -/
def State.accepts (s : State) (i : Instr) : Prop := s.acceptsWord = true ∧ decode s.inputs.cmd = .ok i

/-- Host duty H1 over the coming step: an offered word that is not accepted is still offered, unchanged, in the step
after it (60_exceptions.md R117). The model admits schedules that break it. -/
def State.keepsOffer (s : State) : Bool :=
  !s.inputs.cmdValid || s.cmdReady ||
    (s.takeInputs.inputs.cmdValid && s.takeInputs.inputs.cmd == s.inputs.cmd)

/-- The coming `n` steps hold no reset; commands may be offered and outputs read in any of them. -/
def State.undisturbed (n : Nat) (s : State) : Bool := (s.env.take n).all fun i => !i.rst

/-! ### Traces -/

/-- The pulse of one frame bit: its Data level, then Clock high and low. -/
def bitTrace (f : Half) (k : Nat) : List Event :=
  [.pin .data (f.getLsbD k), .pin .clock true, .pin .clock false]

/-- The pulses of bits `n - 1` down to 0. -/
def bitsTrace (f : Half) : Nat → List Event
  | 0 => []
  | n + 1 => bitTrace f n ++ bitsTrace f n

/-- `trace(F)`, the 50 events of one frame (41_framer.md R89). -/
def frameTrace (f : Half) : List Event := [.pin .latch false] ++ bitsTrace f 16 ++ [.pin .latch true]

/-- The 200 events of one RENDER (42_scan.md R101). -/
def renderTrace (v : Half) (sd : Bool) (dpi : Fin 4) : List Event :=
  frameTrace (renderFrame v sd dpi 0) ++ frameTrace (renderFrame v sd dpi 1) ++
    frameTrace (renderFrame v sd dpi 2) ++ frameTrace (renderFrame v sd dpi 3)

/-! ### The lines and the receiver, replayed from a trace -/

/-- The three line levels and the receiver. -/
structure Wire where
  data : Bool
  clock : Bool
  latch : Bool
  rx : Receiver
  deriving DecidableEq, Repr

/-- What one event does to the lines and the receiver (20_memory.md R50, R58): the receiver shifts DATA in when CLOCK
rises and commits when LATCH rises, and no other event changes it. -/
def Wire.observe (w : Wire) : Event → Wire
  | .reset => { w with data := false, clock := false, latch := false }
  | .pin .data b => { w with data := b }
  | .pin .clock b =>
    { w with
      clock := b
      rx := if w.clock = false ∧ b = true then { w.rx with sr := w.rx.sr <<< 1 ||| (BitVec.ofBool w.data).setWidth 16 } else w.rx }
  | .pin .latch b =>
    { w with latch := b, rx := if w.latch = false ∧ b = true then { w.rx with out := w.rx.sr } else w.rx }

/-- The lines and the receiver after a trace that starts over the receiver `r`. -/
def Wire.replay (r : Receiver) (t : List Event) : Wire := t.foldl Wire.observe ⟨false, false, false, r⟩

/-- The lines and the receiver of a state. -/
def State.wire (s : State) : Wire := ⟨s.data, s.clock, s.latch, s.rx⟩

/-! ### Invariants -/

/-- The line invariants (41_framer.md R91 and R88; 20_memory.md R58). -/
structure State.LinesOk (s : State) : Prop where
  /-- R91 (a): CLOCK = 0 whenever `phase` is not CL. -/
  clock_low : s.phase ≠ .cl → s.clock = false
  /-- The step before CL was CH, which drove CLOCK high. -/
  clock_high : s.phase = .cl → s.clock = true
  /-- R91 (b): DATA holds the current bit through CH and CL. -/
  data_stable : s.phase = .ch ∨ s.phase = .cl → s.data = s.frame.getLsbD s.k.val
  /-- R91 (c): LATCH = 0 while a frame is being shifted. -/
  latch_low : s.phase = .dset ∨ s.phase = .ch ∨ s.phase = .cl ∨ s.phase = .l1 → s.latch = false
  /-- LATCH stays high through a settle hold (R92, R99). -/
  latch_high : s.phase = .settle → s.latch = true

/-- What the sequencer's fields hold together (10_state.md R29, R31; 42_scan.md R95, R97, R100). -/
structure State.SequencerOk (s : State) : Prop where
  /-- R29: a settle hold occurs only in a RENDER. -/
  settle_mode : s.phase = .settle → s.mode = .render
  /-- A frame starts at bit 15. -/
  first_bit : s.phase = .l0 → s.k = 15
  /-- A frame ends at bit 0. -/
  last_bit : s.phase = .l1 ∨ s.phase = .settle → s.k = 0
  /-- The frame of a RENDER in progress is the frame of its current position. -/
  render_frame : s.phase ≠ .idle → s.mode = .render → s.frame = renderFrame s.val s.sd s.dpi s.pos

/-- How far the receiver has shifted the frame in (20_memory.md R59): bit `j` of the frame sits at `j - k - 1` before
bit `k` is shifted, at `j - k` after it. -/
structure State.ReceiverOk (s : State) : Prop where
  before_shift : s.phase = .dset ∨ s.phase = .ch →
    ∀ j, s.k.val < j → j < 16 → s.rx.sr.getLsbD (j - s.k.val - 1) = s.frame.getLsbD j
  after_shift : s.phase = .cl → ∀ j, s.k.val ≤ j → j < 16 → s.rx.sr.getLsbD (j - s.k.val) = s.frame.getLsbD j
  shifted : s.phase = .l1 → s.rx.sr = s.frame
  committed : s.phase = .settle → s.rx.sr = s.frame ∧ s.rx.out = s.frame

/-- The machine's invariant: it holds where runs start and every step keeps it. -/
structure State.Inv (s : State) : Prop where
  lines : s.LinesOk
  sequencer : s.SequencerOk
  receiver : s.ReceiverOk

end Sys2Proof.Machine
end

