-- ==== Sys2Proof/Certificates/Slice0/Obligations.lean ====
section
/-! DEFINITION. The statements about the machine, for the provers. Every step-level statement holds of any schedule of
inputs; `s.takeInputs` is `s` with the step's inputs taken from the schedule and the host's reads recorded. -/

open Sys2Proof Sys2Proof.Machine

/-- For every command with every value of every operand, decoding the word it encodes to gives that command.
(30_encoding.md R64, 30_encoding.md R65, 30_encoding.md R66, 30_encoding.md R67, 30_encoding.md R68) -/
def Obligations.DecodeOfEncodeIsTheCommand : Prop :=
  ∀ i : Instr, decode (encode i) = .ok i

/-- If a word decodes to a command, that command encodes to exactly that word, so no two words decode to one command.
(30_encoding.md R71, 30_encoding.md R68) -/
def Obligations.EncodeOfDecodeIsTheWord : Prop :=
  ∀ (w : Word) (i : Instr), decode w = .ok i → encode i = w

/-- A word decodes to a command exactly when its bits match one of the four match and mask pairs of formats S, P, F and
R; it matches at most one; and the command it decodes to is one of the matching format. (30_encoding.md R64,
30_encoding.md R65, 30_encoding.md R66, 30_encoding.md R67, 30_encoding.md R71) -/
def Obligations.WordsAreOneFormatOrIllegal : Prop :=
  ∀ w : Word,
    ((∃ i, decode w = .ok i) ↔
      (w &&& 0xFFFFFFF0 = 0x10000000 ∨ w &&& 0xFFFFFF00 = 0x20000000 ∨
        w &&& 0xFFFF0000 = 0x30000000 ∨ w &&& 0xFFF80000 = 0x40000000)) ∧
    (∀ r ∈ opcodeRows, ∀ r' ∈ opcodeRows, r.covers w = true → r'.covers w = true → r = r') ∧
    (∀ i, decode w = .ok i → i.row.covers w = true)

/-- A word whose opcode is 0x0 or 0x5 to 0xF is rejected as an illegal opcode, with its opcode; a word with opcode 0x1,
0x2, 0x3 or 0x4 and a reserved bit set is rejected for its reserved bits. (30_encoding.md R62, 30_encoding.md R70,
30_encoding.md R71) -/
def Obligations.IllegalWordsAreRejectedByName : Prop :=
  ∀ w : Word,
    (opcode w = 0x0 ∨ 0x5 ≤ opcode w → decode w = .error (.illegalOpcode (opcode w))) ∧
    (opcode w = 0x1 → w &&& 0x0FFFFFF0 ≠ 0 → decode w = .error (.reservedBits 0x1)) ∧
    (opcode w = 0x2 → w &&& 0x0FFFFF00 ≠ 0 → decode w = .error (.reservedBits 0x2)) ∧
    (opcode w = 0x3 → w &&& 0x0FFF0000 ≠ 0 → decode w = .error (.reservedBits 0x3)) ∧
    (opcode w = 0x4 → w &&& 0x0FF80000 ≠ 0 → decode w = .error (.reservedBits 0x4))

/-- One word of each format, two RENDER words that differ in their decimal-point bits, and an illegal word of each
kind, written out in the spec's vectors, decode as the spec says. (95_test_vectors.md V-E, 95_test_vectors.md V-D,
95_test_vectors.md V-F, 95_test_vectors.md V-S, 95_test_vectors.md V-I) -/
def Obligations.WorkedWordsDecodeAsWritten : Prop :=
  decode 0x10000007 = .ok (.seg 7) ∧ decode 0x1000000A = .ok (.seg 10) ∧
    decode 0x200000F8 = .ok (.dp 0xF8) ∧ decode 0x3000A401 = .ok (.send 0xA4 0x01) ∧
    decode 0x40050113 = .ok (.render 275 true 1) ∧ decode 0x400304D2 = .ok (.render 1234 false 3) ∧
    decode 0x00000000 = .error (.illegalOpcode 0x0) ∧ decode 0x1000001A = .error (.reservedBits 0x1) ∧
    decode 0x40080000 = .error (.reservedBits 0x4)

/-- For every 32-bit word, legal or not, the text the disassembler prints for it assembles to that word alone, and so
does its source command. A legal SEG, DP or SEND word is given by its mnemonic and operands; a RENDER word with sd
= 1 as RENDER v, dp=i; with sd = 0 and dpi = 0 as RENDER v; with sd = 0 and dpi not 0, and every illegal word, as a
raw word. The printed spacing and decimal numbers are the model's choice (log entry 11). (30_encoding.md R74,
30_encoding.md R75, notes/assumptions/11.md) -/
def Obligations.AssemblyOfDisassemblyIsTheWord : Prop :=
  ∀ w : Word, assembleText (disassemble w).print = some [w] ∧ (disassemble w).assemble = some w ∧
    (∀ d, decode w = .ok (.seg d) → disassemble w = .seg d.toNat) ∧
    (∀ p, decode w = .ok (.dp p) → disassemble w = .dp p.toNat) ∧
    (∀ a b, decode w = .ok (.send a b) → disassemble w = .send a.toNat b.toNat) ∧
    (∀ v dpi, decode w = .ok (.render v true dpi) → disassemble w = .render v.toNat (.dp dpi.val)) ∧
    (∀ v, decode w = .ok (.render v false 0) → disassemble w = .render v.toNat .omitted) ∧
    (∀ v dpi, decode w = .ok (.render v false dpi) → dpi ≠ 0 → disassemble w = .word w.toNat) ∧
    (∀ e, decode w = .error e → disassemble w = .word w.toNat)

/-- A source command with an operand outside its range has no word. Otherwise SEG, DP, SEND and RENDER assemble to the
encoding of the command with those operands; RENDER with no decimal-point operand, with dp=-1 and with nodp give
the same word, with sd = 0 and dpi = 0; a raw word assembles to itself. (30_encoding.md R74, 30_encoding.md R75) -/
def Obligations.AssemblerGivesTheWordOfInRangeOperands : Prop :=
  (∀ d, (Source.seg d).assemble = if d ≤ 15 then some (encode (.seg (BitVec.ofNat 4 d))) else none) ∧
    (∀ p, (Source.dp p).assemble = if p ≤ 255 then some (encode (.dp (BitVec.ofNat 8 p))) else none) ∧
    (∀ a b, (Source.send a b).assemble =
      if a ≤ 255 ∧ b ≤ 255 then some (encode (.send (BitVec.ofNat 8 a) (BitVec.ofNat 8 b))) else none) ∧
    (∀ v i, (Source.render v (.dp i)).assemble =
      if v ≤ 65535 ∧ i ≤ 3 then some (encode (.render (BitVec.ofNat 16 v) true (Fin.ofNat 4 i))) else none) ∧
    (∀ v, ∀ point ∈ [PointSpelling.omitted, .dpMinusOne, .nodp], (Source.render v point).assemble =
      if v ≤ 65535 then some (encode (.render (BitVec.ofNat 16 v) false 0)) else none) ∧
    (∀ w, (Source.word w).assemble = if w ≤ 0xFFFFFFFF then some (BitVec.ofNat 32 w) else none)

/-- In every state, SEG d with d at most 9 answers the next state in which RESULT is entry d of the pattern table,
written out, and RV is 1; every other field, the flags FID and FIC, the lines, the trace and the receiver among
them, is unchanged. (40_encoder.md R76, 10_state.md R25, 10_state.md R27, 40_encoder.md R80) -/
def Obligations.SegWritesThePatternOfADigit : Prop :=
  ∀ (s : State) (d : BitVec 4), d ≤ 9 →
    exec (.seg d) s =
      .next { s with result := ([0xC0, 0xF9, 0xA4, 0xB0, 0x99, 0x92, 0x82, 0xF8, 0x80, 0x90] : List Byte).getD d.toNat 0, rv := true }

/-- A step that accepts SEG d with d in 10 to 15 answers the state in which FID is 1 and no other field of the block,
the trace or the receiver has changed. A step that neither is a reset nor accepts such a SEG leaves FID as it was.
(R105) -/
def Obligations.InvalidDigitIsRaisedBySegAlone : Prop :=
  ∀ s : State, s.inputs.rst = false →
    (∀ d, s.accepts (.seg d) → 10 ≤ d → step s = .next { s.takeInputs with fid := true }) ∧
    (∀ t, step s = .next t → (∀ d, s.accepts (.seg d) → d < 10) → t.fid = s.fid)

/-- In every state, SEG d with d at least 10 answers the next state in which FID is 1 and every other field, RESULT and
RV among them, is unchanged. (40_encoder.md R76, 60_exceptions.md R105, 60_exceptions.md R109) -/
def Obligations.SegOfAnInvalidDigitCompletes : Prop :=
  ∀ (s : State) (d : BitVec 4), 10 ≤ d → exec (.seg d) s = .next { s with fid := true }

/-- In every state and for every byte p, DP p answers the next state in which RESULT is p AND 0x7F and RV is 1; RESULT
is not read, and every other field is unchanged. (40_encoder.md R78, 10_state.md R27, 40_encoder.md R80) -/
def Obligations.DpClearsBitSevenIntoResult : Prop :=
  ∀ (s : State) (p : Byte), exec (.dp p) s = .next { s with result := p &&& 0x7F, rv := true }

/-- For every byte, withDecimalPoint is idempotent, keeps bits 6 to 0 and clears bit 7; on the ten patterns of the
digit table it gives the ten listed bytes. (R79) -/
def Obligations.DecimalPointLaws : Prop :=
  (∀ p : Byte, withDecimalPoint (withDecimalPoint p) = withDecimalPoint p ∧
      (withDecimalPoint p).extractLsb' 0 7 = p.extractLsb' 0 7 ∧ (withDecimalPoint p).getLsbD 7 = false) ∧
    romPat.toList.map withDecimalPoint = [0x40, 0x79, 0x24, 0x30, 0x19, 0x12, 0x02, 0x78, 0x00, 0x10]

/-- If a step that is not a reset leaves RESULT or RV different from before, it accepted a SEG of a digit at most 9 or
a DP, and RESULT and RV are then what that command writes. (10_state.md R27, 10_state.md R28, 40_encoder.md R76,
40_encoder.md R78) -/
def Obligations.ResultIsWrittenOnlyBySegAndDp : Prop :=
  ∀ s t : State, s.inputs.rst = false → step s = .next t → t.result ≠ s.result ∨ t.rv ≠ s.rv →
    t.rv = true ∧
      ((∃ d, s.accepts (.seg d) ∧ d ≤ 9 ∧ patternFor d = some t.result) ∨
        (∃ p, s.accepts (.dp p) ∧ t.result = withDecimalPoint p))

/-- In every state and for every two bytes, SEND answers the next state with frame = seg · sel, k = 15, mode = SEND and
phase = L0; every other field, the lines, the trace, RESULT, RV, FID and FIC among them, is unchanged. That pos,
val, sd and dpi are among the unchanged fields is the model's reading of R83's pseudocode against R24's summary
(log entry 12). (41_framer.md R83, 10_state.md R30, 20_memory.md R52, notes/assumptions/12.md) -/
def Obligations.SendLatchesItsFrameAndWritesNoPin : Prop :=
  ∀ (s : State) (a b : Byte), exec (.send a b) s =
    .next { s with frame := (a ++ b : BitVec 16), k := 15, mode := .send, phase := .l0 }

/-- In every state and for all operands, RENDER answers the next state with val, sd and dpi its operands, pos = 0,
frame = the frame of position 0, k = 15, mode = RENDER and phase = L0; every other field is unchanged. (42_scan.md
R95, 42_scan.md R97, 10_state.md R30) -/
def Obligations.RenderLatchesItsOperandsAndFirstFrame : Prop :=
  ∀ (s : State) (v : Half) (sd : Bool) (dpi : Fin 4), exec (.render v sd dpi) s =
    .next { s with val := v, sd := sd, dpi := dpi, pos := 0, frame := renderFrame v sd dpi 0, k := 15, mode := .render,
                   phase := .l0 }

/-- For every 16-bit value, digit i is (v / 10^(3-i)) mod 10 with the divisors 1000, 100, 10, 1; each is at most 9, the
four together are v mod 10000 in decimal with digit 0 the most significant, and no quotient exceeds v. (R96) -/
def Obligations.DigitsAreTheDecimalDigitsOfTheValue : Prop :=
  ∀ v : Half,
    (digit v 0).val = v.toNat / 1000 % 10 ∧ (digit v 1).val = v.toNat / 100 % 10 ∧
    (digit v 2).val = v.toNat / 10 % 10 ∧ (digit v 3).val = v.toNat / 1 % 10 ∧
    (∀ i, (digit v i).val ≤ 9) ∧
    1000 * (digit v 0).val + 100 * (digit v 1).val + 10 * (digit v 2).val + (digit v 3).val = v.toNat % 10000 ∧
    (∀ i : Fin 4, v.toNat / 10 ^ (3 - i.val) ≤ v.toNat)

/-- For all operands and positions, the high byte of the frame is the table entry of the position's digit, with bit 7
cleared exactly when sd = 1 and the position is dpi, and the low byte is 1 shifted left by the position. Exactly
one of the low byte's bits is 1. With sd = 0 the frame does not depend on dpi. (42_scan.md R97, 42_scan.md R98,
10_state.md R25, 10_state.md R26, 30_encoding.md R69) -/
def Obligations.RenderFrameIsPatternThenSelect : Prop :=
  ∀ (v : Half) (sd : Bool) (dpi i : Fin 4),
    (renderFrame v sd dpi i).extractLsb' 8 8 =
        (if sd = true ∧ i = dpi then 0x7F#8 else 0xFF#8) &&& ([0xC0, 0xF9, 0xA4, 0xB0, 0x99, 0x92, 0x82, 0xF8, 0x80, 0x90] : List Byte).getD (digit v i).val 0 ∧
    (renderFrame v sd dpi i).extractLsb' 0 8 = 1#8 <<< i.val ∧
    (∀ j < 8, (renderFrame v sd dpi i).getLsbD j = true ↔ j = i.val) ∧
    (sd = false → renderFrame v sd dpi i = renderFrame v sd 0 i)

/-- In IDLE, out of reset, with a word offered that decodes to a command, whatever the host reads, the step is that
command performed on the state whose only changes are that the step's inputs have left the schedule and the host's
reads are recorded. (30_encoding.md R62, 10_state.md R21, notes/assumptions/1.md, notes/assumptions/4.md) -/
def Obligations.StepRunsTheDecodedCommand : Prop :=
  ∀ (s : State) (i : Instr), s.inputs.rst = false → s.phase = .idle →
    s.inputs.cmdValid = true → decode s.inputs.cmd = .ok i →
    step s = exec i { s with env := s.env.tail, reads := s.reads ++ s.readValues s.inputs }

/-- Placing a legal word with withFetchWord makes the next step perform its command in IDLE on the state otherwise
unchanged. That placing a word is offering it on the command port is the model's choice (log entry 9).
(30_encoding.md R62, 10_state.md R31, notes/assumptions/9.md) -/
def Obligations.OfferedTableWordRunsNext : Prop :=
  ∀ (s : State) (w : Word) (i : Instr), decode w = .ok i →
    step (s.withFetchWord 32 w.toNat) = exec i { s with phase := .idle }

/-- A step that accepts a word with an illegal opcode or a set reserved bit answers the state in which FIC is 1 and no
other field of the block, the trace or the receiver has changed. A step that neither is a reset nor accepts such a
word leaves FIC as it was. (R106) -/
def Obligations.IllegalCommandIsRaisedByIllegalWordsAlone : Prop :=
  ∀ s : State, s.inputs.rst = false →
    (s.acceptsWord = true →
      (opcode s.inputs.cmd = 0x0 ∨ 0x5 ≤ opcode s.inputs.cmd ∨
        (opcode s.inputs.cmd = 0x1 ∧ s.inputs.cmd &&& 0x0FFFFFF0 ≠ 0) ∨
        (opcode s.inputs.cmd = 0x2 ∧ s.inputs.cmd &&& 0x0FFFFF00 ≠ 0) ∨
        (opcode s.inputs.cmd = 0x3 ∧ s.inputs.cmd &&& 0x0FFF0000 ≠ 0) ∨
        (opcode s.inputs.cmd = 0x4 ∧ s.inputs.cmd &&& 0x0FF80000 ≠ 0)) →
      step s = .next { s.takeInputs with fic := true }) ∧
    (∀ t, step s = .next t → (s.acceptsWord = true → legalWord s.inputs.cmd = true) → t.fic = s.fic)

/-- If FID or FIC changes in a step that is not a reset, the other does not. A step that accepts a SEG word with a
reserved bit set leaves FID unchanged whatever its digit field holds. (60_exceptions.md R107, 30_encoding.md R62) -/
def Obligations.OneStepRaisesAtMostOneFault : Prop :=
  ∀ s t : State, s.inputs.rst = false → step s = .next t →
    ¬ (t.fid ≠ s.fid ∧ t.fic ≠ s.fic) ∧
    (s.acceptsWord = true → opcode s.inputs.cmd = 0x1 → s.inputs.cmd &&& 0x0FFFFFF0 ≠ 0 →
      t.fid = s.fid ∧ t.fic = true)

/-- If a step that is not a reset answers a next state, each of RV, FID and FIC that was 1 before is 1 after.
(10_state.md R28, 60_exceptions.md R112) -/
def Obligations.OnlyResetClearsStickyBits : Prop :=
  ∀ s t : State, s.inputs.rst = false → step s = .next t →
    (s.rv = true → t.rv = true) ∧ (s.fid = true → t.fid = true) ∧ (s.fic = true → t.fic = true)

/-- From every state, whatever the phase, whatever is offered and whatever the host reads, a read of result while RV =
0 included, a step with rst = 1 sets the fifteen fields of the block to their reset values and appends the one
event RESET; the receiver is unchanged. (R122, R34) -/
def Obligations.ResetStepGivesTheResetValues : Prop :=
  ∀ s : State, s.inputs.rst = true →
    step s = .next
      { phase := .idle, mode := .send, frame := 0x0000, k := 0, pos := 0, val := 0x0000, sd := false, dpi := 0,
        result := 0xFF, rv := false, fid := false, fic := false, data := false, clock := false, latch := false,
        env := s.env.tail, trace := s.trace ++ [.reset], reads := s.reads ++ s.readValues s.inputs, rx := s.rx }

/-- For every receiver contents and coming inputs, the start of a run holds the reset values of the spec's table in the
fifteen fields of the block, STATUS 0x00, and the trace of one RESET event; State.reset is such a start. That the
trace already holds the event is the model's reading (log entry 8), and State.reset's receiver contents are its
choice (log entry 7). (10_state.md R34, 70_reset_and_hazards.md R126, 70_reset_and_hazards.md R127,
notes/assumptions/8.md) -/
def Obligations.RunsStartFromTheResetValues : Prop :=
  (∀ (r : Receiver) (es : List Inputs),
      let s := State.powerUp r es
      s.phase = .idle ∧ s.mode = .send ∧ s.frame = 0x0000 ∧ s.k = 0 ∧ s.pos = 0 ∧ s.val = 0x0000 ∧ s.sd = false ∧
      s.dpi = 0 ∧ s.result = 0xFF ∧ s.rv = false ∧ s.fid = false ∧ s.fic = false ∧ s.data = false ∧
      s.clock = false ∧ s.latch = false ∧ s.status = 0x00 ∧ s.trace = [.reset] ∧ s.rx = r ∧ s.env = es) ∧
    ∃ r, State.reset = State.powerUp r []

/-- In IDLE, with cmd_valid = 0 and rst = 0, a step leaves every field of the block, the trace and the receiver
unchanged. The spec has no step here; that the model takes one is its choice (log entry 2). (30_encoding.md R62,
60_exceptions.md R120, notes/assumptions/2.md) -/
def Obligations.IdleWithNothingOfferedKeepsTheState : Prop :=
  ∀ s : State, s.inputs.rst = false → s.phase = .idle → s.inputs.cmdValid = false →
    step s = .next { s with env := s.env.tail, reads := s.reads ++ s.readValues s.inputs }

/-- Two inputs that agree on rst and on the host's reads give the same step whatever words they offer, when rst = 1 or
the block is busy. Where nothing is offered in IDLE, the value of cmd does not matter either. (10_state.md R21,
10_state.md R30, 20_memory.md R57, 70_reset_and_hazards.md R129) -/
def Obligations.CommandPortIsSampledOnlyAtAcceptance : Prop :=
  ∀ (s : State) (i j : Inputs) (es : List Inputs),
    i.rst = j.rst → i.readResult = j.readResult → i.readStatus = j.readStatus →
    (i.rst = true ∨ s.phase ≠ .idle ∨ (i.cmdValid = false ∧ j.cmdValid = false)) →
    step { s with env := i :: es } = step { s with env := j :: es }

/-- A step in which the host reads result, status, or both, answers what the same step without the reads answers, in
any phase and under reset too, with what the reads gave added to the host's record: RESULT before the step if RV =
1, no value if RV = 0, and STATUS before the step. (20_memory.md R49, 10_state.md R22, 60_exceptions.md R108,
notes/assumptions/4.md) -/
def Obligations.ReadsHaveNoSideEffect : Prop :=
  ∀ (s t : State) (i : Inputs) (es : List Inputs),
    step { s with env := { i with readResult := false, readStatus := false } :: es } = .next t →
    step { s with env := i :: es } =
      .next { t with reads := s.reads ++
        ((if i.readResult then [if s.rv then .result s.result else .noResult] else []) ++
          (if i.readStatus then [.status s.status] else [])) }

/-- From every state with RV = 0, whatever the phase and the other inputs, a step in which the host reads result
answers what the same step without that read answers, but for the host's record, in which the read has no value;
and every run of any length from there completes, in a state that is faulted, whatever resets it holds. That no
reset clears the record is the model's reading (log entry 5). (60_exceptions.md R108, 10_state.md R27,
70_reset_and_hazards.md R135, 92_eei_decisions.md D9, notes/assumptions/5.md) -/
def Obligations.ReadOfInvalidResultIsAFault : Prop :=
  ∀ (s : State) (i : Inputs) (es : List Inputs), s.rv = false → i.readResult = true →
    ∃ t u, step { s with env := { i with readResult := false } :: es } = .next t ∧
      step { s with env := i :: es } = .next u ∧
      u = { t with reads := s.reads ++ [.noResult] ++ (if i.readStatus then [.status s.status] else []) } ∧
      ∀ n, ∃ v, runSteps n u = .next v ∧ v.hostErred = true ∧ v.faulted = true

/-- Every command answers a next state in every state, every step answers a next state, in a host error of R108 too,
and so do any number of steps from any state. That a step in IDLE with nothing offered answers one is the model's
choice (log entry 2). (60_exceptions.md R109, 60_exceptions.md R112, 60_exceptions.md R108, notes/assumptions/2.md) -/
def Obligations.EveryCommandStepAndRunCompletes : Prop :=
  (∀ (i : Instr) (s : State), ∃ t, exec i s = .next t) ∧
    (∀ s : State, ∃ t, step s = .next t) ∧
    (∀ (n : Nat) (s : State), ∃ t, runSteps n s = .next t)

/-- In every state STATUS bit 0 is 1 exactly outside IDLE, bits 1, 2 and 3 are RV, FID and FIC, and bits 7 to 4 are 0;
cmd_ready is 1 exactly in IDLE out of reset. (10_state.md R28, 10_state.md R21) -/
def Obligations.StatusByteLayout : Prop :=
  ∀ s : State,
    (s.status.getLsbD 0 = true ↔ s.phase ≠ .idle) ∧ s.status.getLsbD 1 = s.rv ∧ s.status.getLsbD 2 = s.fid ∧
    s.status.getLsbD 3 = s.fic ∧ s.status.extractLsb' 4 4 = 0 ∧
    (s.cmdReady = true ↔ s.phase = .idle ∧ s.inputs.rst = false)

/-- In phase L0 the step performs one pin write, LATCH to 0, and goes to DSET; every other field of the block and the
receiver are unchanged. That the receiver changes on no other event than a rise of CLOCK or of LATCH is the
reference receiver, the model's reading (R58, log entry 6). (41_framer.md R84, 20_memory.md R58,
notes/assumptions/6.md) -/
def Obligations.StepLZeroDrivesLatchLow : Prop :=
  ∀ s : State, s.inputs.rst = false → s.phase = .l0 →
    step s = .next { s.takeInputs with latch := false, trace := s.trace ++ [.pin .latch false], phase := .dset }

/-- In phase DSET the step performs one pin write, DATA to bit k of the frame, and goes to CH; every other field of the
block and the receiver are unchanged. That the receiver changes on no other event than a rise of CLOCK or of LATCH
is the reference receiver, the model's reading (R58, log entry 6). (41_framer.md R85, 20_memory.md R58,
notes/assumptions/6.md) -/
def Obligations.StepDsetDrivesTheCurrentBit : Prop :=
  ∀ s : State, s.inputs.rst = false → s.phase = .dset →
    step s = .next { s.takeInputs with
      data := s.frame.getLsbD s.k.val, trace := s.trace ++ [.pin .data (s.frame.getLsbD s.k.val)], phase := .ch }

/-- In phase CH the step performs one pin write, CLOCK to 1, and goes to CL; the receiver shifts DATA in when CLOCK was
0, and every other field of the block is unchanged. The receiver is the reference model (log entry 6).
(41_framer.md R86, 20_memory.md R58, notes/assumptions/6.md) -/
def Obligations.StepChDrivesClockHigh : Prop :=
  ∀ s : State, s.inputs.rst = false → s.phase = .ch →
    step s = .next { s.takeInputs with
      clock := true, trace := s.trace ++ [.pin .clock true], phase := .cl,
      rx := if s.clock then s.rx else { s.rx with sr := s.rx.sr <<< 1 ||| (BitVec.ofBool s.data).setWidth 16 } }

/-- In phase CL the step performs one pin write, CLOCK to 0; if k is above 0 it lowers k by one and goes to DSET,
otherwise it goes to L1; every other field of the block and the receiver are unchanged. That the receiver changes
on no other event than a rise of CLOCK or of LATCH is the reference receiver, the model's reading (R58, log entry
6). (41_framer.md R87, 20_memory.md R58, notes/assumptions/6.md) -/
def Obligations.StepClDrivesClockLowAndCounts : Prop :=
  ∀ s : State, s.inputs.rst = false → s.phase = .cl →
    (∀ n : Fin 16, s.k.val = n.val + 1 →
      step s = .next { s.takeInputs with
        clock := false, trace := s.trace ++ [.pin .clock false], k := n, phase := .dset }) ∧
    (s.k.val = 0 →
      step s = .next { s.takeInputs with clock := false, trace := s.trace ++ [.pin .clock false], phase := .l1 })

/-- In phase L1 the step performs one pin write, LATCH to 1, and goes to IDLE in a SEND and to SETTLE in a RENDER; the
receiver commits when LATCH was 0, and every other field of the block is unchanged. The receiver is the reference
model (log entry 6). (41_framer.md R88, 20_memory.md R58, notes/assumptions/6.md) -/
def Obligations.StepLOneCommitsAndLeaves : Prop :=
  ∀ s : State, s.inputs.rst = false → s.phase = .l1 →
    step s = .next { s.takeInputs with
      latch := true, trace := s.trace ++ [.pin .latch true],
      phase := (match s.mode with | .send => .idle | .render => .settle),
      rx := if s.latch then s.rx else { s.rx with out := s.rx.sr } }

/-- In phase SETTLE the step writes no pin: below position 3 it takes the next position, latches that position's frame,
sets k to 15 and goes to L0; at position 3 it goes to IDLE. Every other field is unchanged. That the settle time
has elapsed in every step from SETTLE, so that the settle end is the step taken at once, is the model's choice (log
entry 3). (42_scan.md R100, 60_exceptions.md R113, notes/assumptions/3.md) -/
def Obligations.SettleEndTakesTheNextPosition : Prop :=
  ∀ s : State, s.inputs.rst = false → s.phase = .settle →
    (∀ p : Fin 4, p.val = s.pos.val + 1 →
      step s = .next { s.takeInputs with
        pos := p, frame := renderFrame s.val s.sd s.dpi p, k := 15, phase := .l0 }) ∧
    (s.pos = 3 → step s = .next { s.takeInputs with phase := .idle })

/-- Every step that answers a next state leaves the trace extended by the RESET event if rst = 1, by the one pin event
of its phase in L0, DSET, CH, CL and L1, and by nothing in IDLE and SETTLE. (00_scope.md R10, 20_memory.md R50,
41_framer.md R92) -/
def Obligations.EachStepAppendsItsOneEvent : Prop :=
  ∀ s t : State, step s = .next t →
    t.trace = s.trace ++
      if s.inputs.rst then [.reset]
      else match s.phase with
        | .idle => []
        | .l0 => [.pin .latch false]
        | .dset => [.pin .data (s.frame.getLsbD s.k.val)]
        | .ch => [.pin .clock true]
        | .cl => [.pin .clock false]
        | .l1 => [.pin .latch true]
        | .settle => []

/-- A step from any phase but IDLE with rst = 0 leaves mode, val, sd, dpi, RESULT, RV, FID and FIC unchanged, whatever
is offered. (10_state.md R24, 10_state.md R30, 60_exceptions.md R109) -/
def Obligations.BusyStepsKeepOperandsAndRegisters : Prop :=
  ∀ s t : State, s.inputs.rst = false → s.phase ≠ .idle → step s = .next t →
    t.mode = s.mode ∧ t.val = s.val ∧ t.sd = s.sd ∧ t.dpi = s.dpi ∧ t.result = s.result ∧ t.rv = s.rv ∧
    t.fid = s.fid ∧ t.fic = s.fic

/-- For every frame F the trace has 50 events; its CLOCK events are 16 pairs of 1 then 0; its DATA events are F[15]
down to F[0]; its LATCH events are the first event, 0, and the last, 1. Played over any lines it ends with DATA =
F[0], CLOCK = 0 and LATCH = 1, and LATCH is 0 after each of the first 49 events. (R90) -/
def Obligations.FrameTraceCounts : Prop :=
  ∀ f : Half,
    (frameTrace f).length = 50 ∧
    (frameTrace f).filter (fun e => e = .pin .clock true ∨ e = .pin .clock false) =
      (List.replicate 16 [Event.pin .clock true, .pin .clock false]).flatten ∧
    (frameTrace f).filter (fun e => e = .pin .data true ∨ e = .pin .data false) =
      (List.range 16).reverse.map (fun k => Event.pin .data (f.getLsbD k)) ∧
    (frameTrace f).head? = some (.pin .latch false) ∧ (frameTrace f).getLast? = some (.pin .latch true) ∧
    (frameTrace f).count (.pin .latch false) = 1 ∧ (frameTrace f).count (.pin .latch true) = 1 ∧
    (∀ (w : Wire) (n : Nat), 1 ≤ n → n ≤ 49 → (((frameTrace f).take n).foldl Wire.observe w).latch = false) ∧
    (∀ w : Wire, ((frameTrace f).foldl Wire.observe w).data = f.getLsbD 0 ∧
      ((frameTrace f).foldl Wire.observe w).clock = false ∧ ((frameTrace f).foldl Wire.observe w).latch = true)

/-- From any state that accepts a SEND of two bytes, 51 steps without reset, whatever words are offered and whatever
the host reads in them, append exactly the 50 events of the frame seg · sel: LATCH low, then for k from 15 down to
0 DATA at bit k, CLOCK high, CLOCK low, then LATCH high. The block is busy after each of the first 50 steps and in
IDLE after the last, with DATA = sel[0], CLOCK = 0 and LATCH = 1; RESULT, RV, FID and FIC are unchanged. (R89) -/
def Obligations.SendIsItsFrameInFiftyOneSteps : Prop :=
  ∀ (s : State) (a b : Byte), s.accepts (.send a b) → s.undisturbed 51 = true →
    (∀ n, 1 ≤ n → n ≤ 50 → ∃ u, runSteps n s = .next u ∧ u.phase ≠ .idle) ∧
    ∃ t, runSteps 51 s = .next t ∧
      t.trace = s.trace ++ ([.pin .latch false] ++
        (List.range 16).reverse.flatMap
          (fun k => [.pin .data ((a ++ b : BitVec 16).getLsbD k), .pin .clock true, .pin .clock false]) ++
        [.pin .latch true]) ∧
      t.phase = .idle ∧ t.data = b.getLsbD 0 ∧ t.clock = false ∧ t.latch = true ∧ t.env = s.env.drop 51 ∧
      t.result = s.result ∧ t.rv = s.rv ∧ t.fid = s.fid ∧ t.fic = s.fic

/-- From any state that accepts a RENDER, 205 steps without reset, whatever words are offered and whatever the host
reads in them, append exactly the 200 events of the frames of positions 0, 1, 2 and 3 in that order. The block is
busy after each of the first 204 steps and in IDLE after the last, with DATA = 0, CLOCK = 0, LATCH = 1, pos = 3 and
frame = the frame of position 3; RESULT, RV, FID and FIC are unchanged. (R101) -/
def Obligations.RenderIsFourFramesInOrder : Prop :=
  ∀ (s : State) (v : Half) (sd : Bool) (dpi : Fin 4), s.accepts (.render v sd dpi) → s.undisturbed 205 = true →
    (renderTrace v sd dpi).length = 200 ∧
    (∀ n, 1 ≤ n → n ≤ 204 → ∃ u, runSteps n s = .next u ∧ u.phase ≠ .idle) ∧
    ∃ t, runSteps 205 s = .next t ∧ t.trace = s.trace ++ renderTrace v sd dpi ∧
      t.phase = .idle ∧ t.data = false ∧ t.clock = false ∧ t.latch = true ∧ t.pos = 3 ∧
      t.frame = renderFrame v sd dpi 3 ∧ t.env = s.env.drop 205 ∧
      t.result = s.result ∧ t.rv = s.rv ∧ t.fid = s.fid ∧ t.fic = s.fic

/-- From any state that accepts a SEND with CLOCK low, whatever the reference receiver holds, after 51 steps without
reset both its shift register and its output register hold seg · sel, so it drives the pattern on the segments and
the mask on the select lines. The receiver is the reference model (log entry 6). (R59) -/
def Obligations.CompletedSendIsCommittedByTheReceiver : Prop :=
  ∀ (s : State) (a b : Byte), s.accepts (.send a b) → s.clock = false → s.undisturbed 51 = true →
    ∃ t, runSteps 51 s = .next t ∧ t.rx.sr = (a ++ b : BitVec 16) ∧ t.rx.out = (a ++ b : BitVec 16) ∧
      t.rx.segments = a ∧ t.rx.select = b

/-- From any state that accepts a RENDER with CLOCK low, after 51 steps for each position up to i, without reset, the
reference receiver holds position i's frame: the segments show its pattern and, of the eight select lines, only
line i is on. The receiver is the reference model (log entry 6). That a settle hold is one step is its choice (log
entry 3). (42_scan.md R102, 42_scan.md R98, 20_memory.md R59, notes/assumptions/3.md, notes/assumptions/6.md) -/
def Obligations.RenderLightsOneDigitAtATime : Prop :=
  ∀ (s : State) (v : Half) (sd : Bool) (dpi i : Fin 4), s.accepts (.render v sd dpi) → s.clock = false →
    s.undisturbed (51 * (i.val + 1)) = true →
    ∃ t, runSteps (51 * (i.val + 1)) s = .next t ∧ t.rx.out = renderFrame v sd dpi i ∧
      t.rx.segments = renderPattern v sd dpi i ∧ ∀ j < 8, t.rx.digitLit j = true ↔ j = i.val

/-- If a step changes the receiver's shift register, it was the CH step with CLOCK low before it, out of reset, and
DATA was shifted in at bit 0; if it changes the output register, it was the L1 step with LATCH low before it, out
of reset, and the shift register was copied. (20_memory.md R58, 20_memory.md R60, 70_reset_and_hazards.md R122,
notes/assumptions/6.md) -/
def Obligations.ReceiverChangesOnlyAtItsRisingEdges : Prop :=
  ∀ s t : State, step s = .next t →
    (t.rx.sr ≠ s.rx.sr →
      s.inputs.rst = false ∧ s.phase = .ch ∧ s.clock = false ∧
      t.rx.sr = s.rx.sr <<< 1 ||| (BitVec.ofBool s.data).setWidth 16) ∧
    (t.rx.out ≠ s.rx.out →
      s.inputs.rst = false ∧ s.phase = .l1 ∧ s.latch = false ∧ t.rx.out = s.rx.sr)

/-- Replaying the events of the trace, with the receiver's rules applied to edges of the replayed lines, gives the
state's line levels and receiver where a run starts, and every step keeps this, from every state in which it holds.
The receiver is the reference model (log entry 6). (20_memory.md R50, 20_memory.md R58, 10_state.md R22) -/
def Obligations.ReceiverIsTheReplayOfTheTrace : Prop :=
  (∀ (r : Receiver) (es : List Inputs),
      Wire.replay r (State.powerUp r es).trace = (State.powerUp r es).wire) ∧
    (∀ (s t : State) (r : Receiver), Wire.replay r s.trace = s.wire → step s = .next t →
      Wire.replay r t.trace = t.wire)

/-- From every state that meets the invariant (CLOCK high exactly in CL, DATA stable through CH and CL, LATCH low while
shifting, a settle hold only in a RENDER, the frame of a RENDER the one of its position, and the receiver holding
the bits shifted so far), whatever the inputs, a step that answers a next state gives a state that meets it. The
receiver is the reference model (log entry 6). (41_framer.md R91, 10_state.md R29, 20_memory.md R59, 42_scan.md
R100) -/
def Obligations.StepKeepsTheMachineInvariant : Prop :=
  ∀ s t : State, s.Inv → step s = .next t → t.Inv

/-- For every receiver contents and coming inputs, the start of a run meets the machine's invariant; State.reset is one
such start. (41_framer.md R91, 70_reset_and_hazards.md R127) -/
def Obligations.RunsStartInTheMachineInvariant : Prop :=
  (∀ (r : Receiver) (es : List Inputs), (State.powerUp r es).Inv) ∧ State.reset.Inv

/-- From every state, reachable or not, if the coming 204 steps hold no reset, whatever words are offered and whatever
the host reads in them, some number of steps at most 204 leads to IDLE. The bound counts the model's steps and
rests on its choice that a settle hold ends in the step after L1 (log entry 3). (70_reset_and_hazards.md R134,
70_reset_and_hazards.md R130, 42_scan.md R101, notes/assumptions/3.md) -/
def Obligations.BusyBlockReachesIdle : Prop :=
  ∀ s : State, s.undisturbed 204 = true → ∃ n ≤ 204, ∃ t, runSteps n s = .next t ∧ t.phase = .idle

/-- From every state, if the coming 205 inputs all offer the same word, legal or not, with no reset, then after some
number of steps at most 204 the block is in a state whose next step accepts exactly that word. The bound counts the
model's steps and rests on its choice that a settle hold ends in the step after L1 (log entry 3).
(70_reset_and_hazards.md R130, 70_reset_and_hazards.md R129, 60_exceptions.md R117, notes/assumptions/3.md) -/
def Obligations.HeldOfferIsAcceptedWithinOneRender : Prop :=
  ∀ (s : State) (w : Word), 205 ≤ s.env.length → s.undisturbed 205 = true →
    (∀ x ∈ s.env.take 205, x.cmdValid = true ∧ x.cmd = w) →
    ∃ n ≤ 204, ∃ t, runSteps n s = .next t ∧ t.acceptsWord = true ∧ t.inputs.cmd = w ∧
      step t = accept w t.takeInputs

/-- Whatever the clock frequency, SETTLE_CYCLES cycles of it are at least T_SETTLE, 2 ms: SETTLE_CYCLES times 1000 is
at least 2 times F_CLK in hertz. It speaks of the constant alone: that SETTLE_CYCLES is its lower bound plus an
unknown number is the model's choice (log entry 10), and no step reads it, a settle hold of the model being one
step (log entry 3). (00_scope.md R6, 60_exceptions.md R113, notes/assumptions/3.md, notes/assumptions/10.md) -/
def Obligations.SettleCyclesAreAtLeastTheSettleTime : Prop :=
  Config.tSettleMs = 2 ∧ Config.settleCycles * 1000 ≥ 2 * Config.fClkHz

/-- For every source command, with any operands and any of the four spellings of RENDER's decimal point, assembling its
printed text gives exactly the one word the command assembles to, and is refused exactly when an operand is out of
range. The printed spacing and decimal numbers are the model's choice (log entry 11). (30_encoding.md R74,
30_encoding.md R75, notes/assumptions/11.md) -/
def Obligations.PrintedSourceAssemblesToItsWord : Prop :=
  ∀ c : Source, assembleText c.print = c.assemble.map fun w => [w]

/-- A number's decimal digits, and 0x before its hexadecimal digits, read as that number, the letters among these
digits in lower case, in upper case as the spec writes them (0xFF, 0xA4), or mixed. That lower and mixed case are
read beside the upper case is the model's choice (log entry 11). Whatever follows a ; on a line changes nothing. A
text that begins with a whole line gives that line's words before those of the rest, and is refused if either is.
(30_encoding.md R74, notes/assumptions/11.md) -/
def Obligations.AssemblerReadsNumbersCommentsAndLines : Prop :=
  (∀ n, parseNumber (Nat.toDigits 10 n) = some n ∧ parseNumber ('0' :: 'x' :: Nat.toDigits 16 n) = some n ∧
      parseNumber ('0' :: 'x' :: (Nat.toDigits 16 n).map Char.toUpper) = some n) ∧
    (∀ (n : Nat) (cs : List Char), cs.map Char.toLower = Nat.toDigits 16 n →
      parseNumber ('0' :: 'x' :: cs) = some n) ∧
    (∀ line comment : List Char, parseLine (line ++ ';' :: comment) = parseLine line) ∧
    (∀ line rest : List Char, '\n' ∉ line →
      assembleText (line ++ '\n' :: rest) =
        (assembleText line).bind fun ws => (assembleText rest).map fun ws' => ws ++ ws')

/-- Within n steps the run from a state ends in t exactly when some number of steps at most n leads to t, t is in IDLE
with no command offered in any input to come, and no state before it on the run is such a state. That a reset or a
host read still to come does not keep the run from ending is the model's reading (log entry 14).
(70_reset_and_hazards.md R135, notes/assumptions/14.md) -/
def Obligations.EndOfRunIsTheFirstEndedState : Prop :=
  ∀ (n : Nat) (s t : State), endOfRun n s = some t ↔
    ∃ m ≤ n, runSteps m s = .next t ∧ (t.phase = .idle ∧ ∀ i ∈ t.env, i.cmdValid = false) ∧
      ∀ j < m, ∀ u, runSteps j s = .next u → ¬ (u.phase = .idle ∧ ∀ i ∈ u.env, i.cmdValid = false)

/-- Every step from a state in which the run has ended leads to such a state, and unless it is a reset it leaves the
observation, the pin trace with RESULT, RV, FID and FIC, unchanged. That steps follow the end is the model's choice
(log entries 2 and 14). (70_reset_and_hazards.md R135, 41_framer.md R92, notes/assumptions/2.md,
notes/assumptions/14.md) -/
def Obligations.EndedRunKeepsItsObservation : Prop :=
  ∀ s t : State, s.runEnded = true → step s = .next t →
    t.runEnded = true ∧ (s.inputs.rst = false → t.observe = s.observe)

/-- A good final state is in IDLE with no further command offered, with FID = 0 and FIC = 0 and no host error on
record, and every run of any length from it completes, in a good final state: no host read to come is the host
error. That reads after the last command count is the model's choice (log entry 14). (70_reset_and_hazards.md R135,
60_exceptions.md R112, 60_exceptions.md R108, notes/assumptions/5.md, notes/assumptions/14.md) -/
def Obligations.GoodFinalStatesStayGoodAndNeverStop : Prop :=
  ∀ s : State, s.goodFinal = true →
    (s.phase = .idle ∧ (∀ i ∈ s.env, i.cmdValid = false) ∧ s.fid = false ∧ s.fic = false ∧
      HostRead.noResult ∉ s.reads) ∧
    ∀ n, ∃ t, runSteps n s = .next t ∧ t.goodFinal = true

/-- If a run is good, then it ends within n steps in a good final state, and no state on it up to that end, the end
included, has FID = 1 or FIC = 1 or a host read of result without a value on record. That a fault counts although a
reset inside the run clears its flag is the model's reading of D8 beside R112 (log entry 14). (60_exceptions.md
R112, 70_reset_and_hazards.md R135, 92_eei_decisions.md D8, 60_exceptions.md R108, notes/assumptions/5.md,
notes/assumptions/14.md) -/
def Obligations.FaultedStatesMakeTheRunBad : Prop :=
  ∀ (n : Nat) (s : State), goodRun n s = true →
    ∃ t m, m ≤ n ∧ endOfRun n s = some t ∧ runSteps m s = .next t ∧ t.goodFinal = true ∧
      ∀ j ≤ m, ∀ u, runSteps j s = .next u → u.fid = false ∧ u.fic = false ∧ HostRead.noResult ∉ u.reads
end

