-- ==== Sys2Proof/Laws/Assembly.lean ====
section
/-! SUPPORT. The assembler's text: digits read back as printed, and what a printed number does not hold. -/

namespace Sys2Proof.Machine

theorem digitValue_digitChar {b d : Nat} (hb : b ≤ 16) (hd : d < b) : digitValue b (Nat.digitChar d) = some d := by
  have h16 : d < 16 := by omega
  interval_cases d <;> simp +decide [digitValue, hd]

/-- A digit reads alike in either case. -/
theorem digitValue_toLower (b : Nat) (c : Char) : digitValue b c.toLower = digitValue b c := by
  unfold Char.toLower
  split
  · rename_i h
    have h1 : 65 ≤ c.toNat := h.1
    have h2 : c.toNat ≤ 90 := h.2
    have e : c = Char.ofNat c.toNat := (Char.ofNat_toNat c).symm
    generalize c.toNat = n at *
    subst e
    simp only [digitValue]
    interval_cases n <;> rfl
  · rfl

/-- A text reads alike in either case. -/
theorem digitsValue_map_toLower (b acc : Nat) (cs : List Char) :
    digitsValue b acc (cs.map Char.toLower) = digitsValue b acc cs := by
  induction cs generalizing acc with
  | nil => rfl
  | cons c cs ih => simp only [List.map_cons, digitsValue, digitValue_toLower, ih]

theorem digitsValue_append (b : Nat) (cs ds : List Char) (acc : Nat) :
    digitsValue b acc (cs ++ ds) = (digitsValue b acc cs).bind fun a => digitsValue b a ds := by
  induction cs generalizing acc with
  | nil => rfl
  | cons c cs ih =>
    simp only [List.cons_append, digitsValue]
    cases digitValue b c with
    | none => rfl
    | some d => exact ih _

/-- Reading the digits of a number in a base gives the number back. -/
theorem digitsValue_toDigits {b : Nat} (hb : 1 < b) (hb' : b ≤ 16) (n : Nat) :
    digitsValue b 0 (Nat.toDigits b n) = some n := by
  induction n using Nat.strongRecOn with
  | _ n ih =>
    by_cases h : n < b
    · rw [Nat.toDigits_of_lt_base h]
      simp [digitsValue, digitValue_digitChar hb' h]
    · have hq : 0 < n / b := Nat.div_pos (by omega) (by omega)
      have e : Nat.toDigits b n = Nat.toDigits b (n / b) ++ [Nat.digitChar (n % b)] := by
        rw [Nat.toDigits_eq_if hb, if_neg h]
      rw [e, digitsValue_append, ih _ (Nat.div_lt_self (by omega) hb)]
      have hm := Nat.mod_lt n (show b > 0 by omega)
      simp [digitsValue, digitValue_digitChar hb' hm, Nat.div_add_mod']

/-- Text without the separator is one piece. -/
theorem splitAtChar_of_not_mem {sep : Char} {cs : List Char} (h : sep ∉ cs) : splitAtChar sep cs = [cs] := by
  induction cs with
  | nil => rfl
  | cons c cs ih =>
    simp only [List.mem_cons, not_or] at h
    simp [splitAtChar, ih h.2, Ne.symm h.1]

/-- The piece before the first separator, and the pieces of the rest. -/
theorem splitAtChar_append {sep : Char} {cs : List Char} (h : sep ∉ cs) (ds : List Char) :
    splitAtChar sep (cs ++ sep :: ds) = cs :: splitAtChar sep ds := by
  have hne : ∀ l : List Char, splitAtChar sep l ≠ [] := by
    intro l
    cases l with
    | nil => simp [splitAtChar]
    | cons a l => simp only [splitAtChar]; split <;> (try split) <;> simp
  induction cs with
  | nil =>
    cases hd : splitAtChar sep ds with
    | nil => exact absurd hd (hne ds)
    | cons a l => simp [splitAtChar, hd]
  | cons c cs ih =>
    simp only [List.mem_cons, not_or] at h
    simp [splitAtChar, ih h.2, Ne.symm h.1]

/-- Text without blanks is trimmed to itself. -/
theorem trimBlanks_of_plain {cs : List Char} (h : ∀ c ∈ cs, isBlank c = false) : trimBlanks cs = cs := by
  have drop : ∀ l : List Char, (∀ c ∈ l, isBlank c = false) → l.dropWhile isBlank = l := by
    intro l hl
    cases l with
    | nil => rfl
    | cons a l => simp [List.dropWhile, hl a (by simp)]
  rw [trimBlanks, drop cs h, drop cs.reverse (by simpa using h), List.reverse_reverse]

/-- A leading blank is trimmed away. -/
theorem trimBlanks_blank_cons {c : Char} (h : isBlank c = true) (cs : List Char) :
    trimBlanks (c :: cs) = trimBlanks cs := by
  simp [trimBlanks, List.dropWhile, h]

/-- Every character of a printed number is the character of a decimal digit. -/
theorem printNumber_digits {n : Nat} {c : Char} (h : c ∈ printNumber n) : ∃ d < 10, c = Nat.digitChar d := by
  unfold printNumber at h
  induction n using Nat.strongRecOn with
  | _ n ih =>
    by_cases hn : n < 10
    · rw [Nat.toDigits_of_lt_base hn] at h
      exact ⟨n, hn, by simpa using h⟩
    · rw [Nat.toDigits_eq_if (by decide), if_neg hn, List.mem_append] at h
      rcases h with h | h
      · exact ih _ (by omega) h
      · exact ⟨n % 10, Nat.mod_lt _ (by decide), by simpa using h⟩

/-- A printed number holds no blank, comma, comment mark or line end. -/
theorem printNumber_plain {n : Nat} {c : Char} (h : c ∈ printNumber n) :
    isBlank c = false ∧ c ≠ ',' ∧ c ≠ ';' ∧ c ≠ '\n' ∧ c ≠ 'x' ∧ c ≠ '-' := by
  obtain ⟨d, hd, rfl⟩ := printNumber_digits h
  interval_cases d <;> decide

theorem printNumber_ne_nil (n : Nat) : printNumber n ≠ [] := Nat.toDigits_ne_nil

end Sys2Proof.Machine
end

