-- ==== Sys2Proof/Laws/Encoding.lean ====
section
/-! SUPPORT. The bits of joined bytes and of encoded words. A concatenation's width is a sum of literals, so its bits
are read off here once. -/

namespace Sys2Proof

theorem joinBytes_getLsbD (a b : Byte) (j : Nat) :
    (joinBytes a b).getLsbD j = if j < 8 then b.getLsbD j else a.getLsbD (j - 8) :=
  BitVec.getLsbD_append (x := a) (y := b)

theorem joinBytes_high (a b : Byte) : (joinBytes a b).extractLsb' 8 8 = a := by
  ext j hj; simp [joinBytes_getLsbD, BitVec.getLsbD_eq_getElem hj]

theorem joinBytes_low (a b : Byte) : (joinBytes a b).extractLsb' 0 8 = b := by
  ext j hj; simp [joinBytes_getLsbD, hj]

theorem joinBytes_toNat (a b : Byte) : (joinBytes a b).toNat = a.toNat * 256 + b.toNat := by
  change (a ++ b : BitVec (8 + 8)).toNat = _
  rw [BitVec.toNat_append, ← Nat.shiftLeft_add_eq_or_of_lt b.isLt, Nat.shiftLeft_eq]

theorem encode_seg_getLsbD (d : BitVec 4) (j : Nat) :
    (encode (.seg d)).getLsbD j = if j < 4 then d.getLsbD j else (0x1#4 ++ 0#24 : BitVec (4 + 24)).getLsbD (j - 4) :=
  BitVec.getLsbD_append (x := (0x1#4 ++ 0#24 : BitVec (4 + 24))) (y := d)

theorem encode_dp_getLsbD (p : Byte) (j : Nat) :
    (encode (.dp p)).getLsbD j = if j < 8 then p.getLsbD j else (0x2#4 ++ 0#20 : BitVec (4 + 20)).getLsbD (j - 8) :=
  BitVec.getLsbD_append (x := (0x2#4 ++ 0#20 : BitVec (4 + 20))) (y := p)

theorem encode_send_getLsbD (a b : Byte) (j : Nat) :
    (encode (.send a b)).getLsbD j =
      if j < 8 then b.getLsbD j
      else if j - 8 < 8 then a.getLsbD (j - 8)
      else (0x3#4 ++ 0#12 : BitVec (4 + 12)).getLsbD (j - 8 - 8) :=
  (BitVec.getLsbD_append (x := (0x3#4 ++ 0#12 ++ a : BitVec (4 + 12 + 8))) (y := b)).trans
    (by rw [BitVec.getLsbD_append])

theorem encode_render_getLsbD (v : Half) (sd : Bool) (dpi : Fin 4) (j : Nat) :
    (encode (.render v sd dpi)).getLsbD j =
      if j < 16 then v.getLsbD j
      else if j - 16 < 2 then (BitVec.ofFin dpi : BitVec 2).getLsbD (j - 16)
      else if j - 16 - 2 < 1 then (BitVec.ofBool sd).getLsbD (j - 16 - 2)
      else (0x4#4 ++ 0#9 : BitVec (4 + 9)).getLsbD (j - 16 - 2 - 1) :=
  (BitVec.getLsbD_append (x := (0x4#4 ++ 0#9 ++ BitVec.ofBool sd ++ (BitVec.ofFin dpi : BitVec 2) : BitVec (4 + 9 + 1 + 2)))
    (y := v)).trans (by rw [BitVec.getLsbD_append, BitVec.getLsbD_append])

/-- Everything a word that decodes can be: its opcode, its reserved bits and its command. -/
theorem decode_ok_cases {w : Word} {i : Instr} (h : decode w = .ok i) :
    (opcode w = 0x1 ∧ w.extractLsb' 4 24 = 0 ∧ i = .seg (w.extractLsb' 0 4)) ∨
    (opcode w = 0x2 ∧ w.extractLsb' 8 20 = 0 ∧ i = .dp (w.extractLsb' 0 8)) ∨
    (opcode w = 0x3 ∧ w.extractLsb' 16 12 = 0 ∧ i = .send (w.extractLsb' 8 8) (w.extractLsb' 0 8)) ∨
    (opcode w = 0x4 ∧ w.extractLsb' 19 9 = 0 ∧
      i = .render (w.extractLsb' 0 16) (w.getLsbD 18) (w.extractLsb' 16 2).toFin) := by
  unfold decode at h
  split at h
  · unfold decodeSeg at h; split at h <;> simp_all
  split at h
  · unfold decodeDp at h; split at h <;> simp_all
  split at h
  · unfold decodeSend at h; split at h <;> simp_all
  split at h
  · unfold decodeRender at h; split at h <;> simp_all
  · simp at h

/-- A bit of a word whose field is known. -/
theorem getLsbD_of_extract {n k : Nat} {w : Word} {c : BitVec n} (h : w.extractLsb' k n = c) {j : Nat} (hj : j < n) :
    w.getLsbD (k + j) = c.getLsbD j := by
  rw [← h, BitVec.getLsbD_extractLsb']; simp [hj]

end Sys2Proof
end

