-- ==== Sys2Proof/Laws/State.lean ====
section
/-! SUPPORT. One lemma per field per named update of State (Machine/Ops.lean), so that no later proof unfolds a record
update. -/

namespace Sys2Proof.Machine.State

/-! ### writePin -/

@[simp] theorem writePin_phase (s : State) (l : Line) (b : Bool) : (s.writePin l b).phase = s.phase := rfl

@[simp] theorem writePin_mode (s : State) (l : Line) (b : Bool) : (s.writePin l b).mode = s.mode := rfl

@[simp] theorem writePin_frame (s : State) (l : Line) (b : Bool) : (s.writePin l b).frame = s.frame := rfl

@[simp] theorem writePin_k (s : State) (l : Line) (b : Bool) : (s.writePin l b).k = s.k := rfl

@[simp] theorem writePin_pos (s : State) (l : Line) (b : Bool) : (s.writePin l b).pos = s.pos := rfl

@[simp] theorem writePin_val (s : State) (l : Line) (b : Bool) : (s.writePin l b).val = s.val := rfl

@[simp] theorem writePin_sd (s : State) (l : Line) (b : Bool) : (s.writePin l b).sd = s.sd := rfl

@[simp] theorem writePin_dpi (s : State) (l : Line) (b : Bool) : (s.writePin l b).dpi = s.dpi := rfl

@[simp] theorem writePin_result (s : State) (l : Line) (b : Bool) : (s.writePin l b).result = s.result := rfl

@[simp] theorem writePin_rv (s : State) (l : Line) (b : Bool) : (s.writePin l b).rv = s.rv := rfl

@[simp] theorem writePin_fid (s : State) (l : Line) (b : Bool) : (s.writePin l b).fid = s.fid := rfl

@[simp] theorem writePin_fic (s : State) (l : Line) (b : Bool) : (s.writePin l b).fic = s.fic := rfl

@[simp] theorem writePin_data (s : State) (l : Line) (b : Bool) : (s.writePin l b).data = if l = .data then b else s.data := rfl

@[simp] theorem writePin_clock (s : State) (l : Line) (b : Bool) : (s.writePin l b).clock = if l = .clock then b else s.clock := rfl

@[simp] theorem writePin_latch (s : State) (l : Line) (b : Bool) : (s.writePin l b).latch = if l = .latch then b else s.latch := rfl

@[simp] theorem writePin_env (s : State) (l : Line) (b : Bool) : (s.writePin l b).env = s.env := rfl

@[simp] theorem writePin_trace (s : State) (l : Line) (b : Bool) : (s.writePin l b).trace = s.trace ++ [.pin l b] := rfl

@[simp] theorem writePin_reads (s : State) (l : Line) (b : Bool) : (s.writePin l b).reads = s.reads := rfl

@[simp] theorem writePin_rx (s : State) (l : Line) (b : Bool) : (s.writePin l b).rx = s.rx.onPin s.data s.clock s.latch l b := rfl

/-! ### setPhase -/

@[simp] theorem setPhase_phase (s : State) (p : Phase) : (s.setPhase p).phase = p := rfl

@[simp] theorem setPhase_mode (s : State) (p : Phase) : (s.setPhase p).mode = s.mode := rfl

@[simp] theorem setPhase_frame (s : State) (p : Phase) : (s.setPhase p).frame = s.frame := rfl

@[simp] theorem setPhase_k (s : State) (p : Phase) : (s.setPhase p).k = s.k := rfl

@[simp] theorem setPhase_pos (s : State) (p : Phase) : (s.setPhase p).pos = s.pos := rfl

@[simp] theorem setPhase_val (s : State) (p : Phase) : (s.setPhase p).val = s.val := rfl

@[simp] theorem setPhase_sd (s : State) (p : Phase) : (s.setPhase p).sd = s.sd := rfl

@[simp] theorem setPhase_dpi (s : State) (p : Phase) : (s.setPhase p).dpi = s.dpi := rfl

@[simp] theorem setPhase_result (s : State) (p : Phase) : (s.setPhase p).result = s.result := rfl

@[simp] theorem setPhase_rv (s : State) (p : Phase) : (s.setPhase p).rv = s.rv := rfl

@[simp] theorem setPhase_fid (s : State) (p : Phase) : (s.setPhase p).fid = s.fid := rfl

@[simp] theorem setPhase_fic (s : State) (p : Phase) : (s.setPhase p).fic = s.fic := rfl

@[simp] theorem setPhase_data (s : State) (p : Phase) : (s.setPhase p).data = s.data := rfl

@[simp] theorem setPhase_clock (s : State) (p : Phase) : (s.setPhase p).clock = s.clock := rfl

@[simp] theorem setPhase_latch (s : State) (p : Phase) : (s.setPhase p).latch = s.latch := rfl

@[simp] theorem setPhase_env (s : State) (p : Phase) : (s.setPhase p).env = s.env := rfl

@[simp] theorem setPhase_trace (s : State) (p : Phase) : (s.setPhase p).trace = s.trace := rfl

@[simp] theorem setPhase_reads (s : State) (p : Phase) : (s.setPhase p).reads = s.reads := rfl

@[simp] theorem setPhase_rx (s : State) (p : Phase) : (s.setPhase p).rx = s.rx := rfl

/-! ### setK -/

@[simp] theorem setK_phase (s : State) (i : Fin 16) : (s.setK i).phase = s.phase := rfl

@[simp] theorem setK_mode (s : State) (i : Fin 16) : (s.setK i).mode = s.mode := rfl

@[simp] theorem setK_frame (s : State) (i : Fin 16) : (s.setK i).frame = s.frame := rfl

@[simp] theorem setK_k (s : State) (i : Fin 16) : (s.setK i).k = i := rfl

@[simp] theorem setK_pos (s : State) (i : Fin 16) : (s.setK i).pos = s.pos := rfl

@[simp] theorem setK_val (s : State) (i : Fin 16) : (s.setK i).val = s.val := rfl

@[simp] theorem setK_sd (s : State) (i : Fin 16) : (s.setK i).sd = s.sd := rfl

@[simp] theorem setK_dpi (s : State) (i : Fin 16) : (s.setK i).dpi = s.dpi := rfl

@[simp] theorem setK_result (s : State) (i : Fin 16) : (s.setK i).result = s.result := rfl

@[simp] theorem setK_rv (s : State) (i : Fin 16) : (s.setK i).rv = s.rv := rfl

@[simp] theorem setK_fid (s : State) (i : Fin 16) : (s.setK i).fid = s.fid := rfl

@[simp] theorem setK_fic (s : State) (i : Fin 16) : (s.setK i).fic = s.fic := rfl

@[simp] theorem setK_data (s : State) (i : Fin 16) : (s.setK i).data = s.data := rfl

@[simp] theorem setK_clock (s : State) (i : Fin 16) : (s.setK i).clock = s.clock := rfl

@[simp] theorem setK_latch (s : State) (i : Fin 16) : (s.setK i).latch = s.latch := rfl

@[simp] theorem setK_env (s : State) (i : Fin 16) : (s.setK i).env = s.env := rfl

@[simp] theorem setK_trace (s : State) (i : Fin 16) : (s.setK i).trace = s.trace := rfl

@[simp] theorem setK_reads (s : State) (i : Fin 16) : (s.setK i).reads = s.reads := rfl

@[simp] theorem setK_rx (s : State) (i : Fin 16) : (s.setK i).rx = s.rx := rfl

/-! ### setMode -/

@[simp] theorem setMode_phase (s : State) (m : Mode) : (s.setMode m).phase = s.phase := rfl

@[simp] theorem setMode_mode (s : State) (m : Mode) : (s.setMode m).mode = m := rfl

@[simp] theorem setMode_frame (s : State) (m : Mode) : (s.setMode m).frame = s.frame := rfl

@[simp] theorem setMode_k (s : State) (m : Mode) : (s.setMode m).k = s.k := rfl

@[simp] theorem setMode_pos (s : State) (m : Mode) : (s.setMode m).pos = s.pos := rfl

@[simp] theorem setMode_val (s : State) (m : Mode) : (s.setMode m).val = s.val := rfl

@[simp] theorem setMode_sd (s : State) (m : Mode) : (s.setMode m).sd = s.sd := rfl

@[simp] theorem setMode_dpi (s : State) (m : Mode) : (s.setMode m).dpi = s.dpi := rfl

@[simp] theorem setMode_result (s : State) (m : Mode) : (s.setMode m).result = s.result := rfl

@[simp] theorem setMode_rv (s : State) (m : Mode) : (s.setMode m).rv = s.rv := rfl

@[simp] theorem setMode_fid (s : State) (m : Mode) : (s.setMode m).fid = s.fid := rfl

@[simp] theorem setMode_fic (s : State) (m : Mode) : (s.setMode m).fic = s.fic := rfl

@[simp] theorem setMode_data (s : State) (m : Mode) : (s.setMode m).data = s.data := rfl

@[simp] theorem setMode_clock (s : State) (m : Mode) : (s.setMode m).clock = s.clock := rfl

@[simp] theorem setMode_latch (s : State) (m : Mode) : (s.setMode m).latch = s.latch := rfl

@[simp] theorem setMode_env (s : State) (m : Mode) : (s.setMode m).env = s.env := rfl

@[simp] theorem setMode_trace (s : State) (m : Mode) : (s.setMode m).trace = s.trace := rfl

@[simp] theorem setMode_reads (s : State) (m : Mode) : (s.setMode m).reads = s.reads := rfl

@[simp] theorem setMode_rx (s : State) (m : Mode) : (s.setMode m).rx = s.rx := rfl

/-! ### setPos -/

@[simp] theorem setPos_phase (s : State) (p : Fin 4) : (s.setPos p).phase = s.phase := rfl

@[simp] theorem setPos_mode (s : State) (p : Fin 4) : (s.setPos p).mode = s.mode := rfl

@[simp] theorem setPos_frame (s : State) (p : Fin 4) : (s.setPos p).frame = s.frame := rfl

@[simp] theorem setPos_k (s : State) (p : Fin 4) : (s.setPos p).k = s.k := rfl

@[simp] theorem setPos_pos (s : State) (p : Fin 4) : (s.setPos p).pos = p := rfl

@[simp] theorem setPos_val (s : State) (p : Fin 4) : (s.setPos p).val = s.val := rfl

@[simp] theorem setPos_sd (s : State) (p : Fin 4) : (s.setPos p).sd = s.sd := rfl

@[simp] theorem setPos_dpi (s : State) (p : Fin 4) : (s.setPos p).dpi = s.dpi := rfl

@[simp] theorem setPos_result (s : State) (p : Fin 4) : (s.setPos p).result = s.result := rfl

@[simp] theorem setPos_rv (s : State) (p : Fin 4) : (s.setPos p).rv = s.rv := rfl

@[simp] theorem setPos_fid (s : State) (p : Fin 4) : (s.setPos p).fid = s.fid := rfl

@[simp] theorem setPos_fic (s : State) (p : Fin 4) : (s.setPos p).fic = s.fic := rfl

@[simp] theorem setPos_data (s : State) (p : Fin 4) : (s.setPos p).data = s.data := rfl

@[simp] theorem setPos_clock (s : State) (p : Fin 4) : (s.setPos p).clock = s.clock := rfl

@[simp] theorem setPos_latch (s : State) (p : Fin 4) : (s.setPos p).latch = s.latch := rfl

@[simp] theorem setPos_env (s : State) (p : Fin 4) : (s.setPos p).env = s.env := rfl

@[simp] theorem setPos_trace (s : State) (p : Fin 4) : (s.setPos p).trace = s.trace := rfl

@[simp] theorem setPos_reads (s : State) (p : Fin 4) : (s.setPos p).reads = s.reads := rfl

@[simp] theorem setPos_rx (s : State) (p : Fin 4) : (s.setPos p).rx = s.rx := rfl

/-! ### latchOperands -/

@[simp] theorem latchOperands_phase (s : State) (v : Half) (sd : Bool) (dpi : Fin 4) : (s.latchOperands v sd dpi).phase = s.phase := rfl

@[simp] theorem latchOperands_mode (s : State) (v : Half) (sd : Bool) (dpi : Fin 4) : (s.latchOperands v sd dpi).mode = s.mode := rfl

@[simp] theorem latchOperands_frame (s : State) (v : Half) (sd : Bool) (dpi : Fin 4) : (s.latchOperands v sd dpi).frame = s.frame := rfl

@[simp] theorem latchOperands_k (s : State) (v : Half) (sd : Bool) (dpi : Fin 4) : (s.latchOperands v sd dpi).k = s.k := rfl

@[simp] theorem latchOperands_pos (s : State) (v : Half) (sd : Bool) (dpi : Fin 4) : (s.latchOperands v sd dpi).pos = s.pos := rfl

@[simp] theorem latchOperands_val (s : State) (v : Half) (sd : Bool) (dpi : Fin 4) : (s.latchOperands v sd dpi).val = v := rfl

@[simp] theorem latchOperands_sd (s : State) (v : Half) (sd : Bool) (dpi : Fin 4) : (s.latchOperands v sd dpi).sd = sd := rfl

@[simp] theorem latchOperands_dpi (s : State) (v : Half) (sd : Bool) (dpi : Fin 4) : (s.latchOperands v sd dpi).dpi = dpi := rfl

@[simp] theorem latchOperands_result (s : State) (v : Half) (sd : Bool) (dpi : Fin 4) : (s.latchOperands v sd dpi).result = s.result := rfl

@[simp] theorem latchOperands_rv (s : State) (v : Half) (sd : Bool) (dpi : Fin 4) : (s.latchOperands v sd dpi).rv = s.rv := rfl

@[simp] theorem latchOperands_fid (s : State) (v : Half) (sd : Bool) (dpi : Fin 4) : (s.latchOperands v sd dpi).fid = s.fid := rfl

@[simp] theorem latchOperands_fic (s : State) (v : Half) (sd : Bool) (dpi : Fin 4) : (s.latchOperands v sd dpi).fic = s.fic := rfl

@[simp] theorem latchOperands_data (s : State) (v : Half) (sd : Bool) (dpi : Fin 4) : (s.latchOperands v sd dpi).data = s.data := rfl

@[simp] theorem latchOperands_clock (s : State) (v : Half) (sd : Bool) (dpi : Fin 4) : (s.latchOperands v sd dpi).clock = s.clock := rfl

@[simp] theorem latchOperands_latch (s : State) (v : Half) (sd : Bool) (dpi : Fin 4) : (s.latchOperands v sd dpi).latch = s.latch := rfl

@[simp] theorem latchOperands_env (s : State) (v : Half) (sd : Bool) (dpi : Fin 4) : (s.latchOperands v sd dpi).env = s.env := rfl

@[simp] theorem latchOperands_trace (s : State) (v : Half) (sd : Bool) (dpi : Fin 4) : (s.latchOperands v sd dpi).trace = s.trace := rfl

@[simp] theorem latchOperands_reads (s : State) (v : Half) (sd : Bool) (dpi : Fin 4) : (s.latchOperands v sd dpi).reads = s.reads := rfl

@[simp] theorem latchOperands_rx (s : State) (v : Half) (sd : Bool) (dpi : Fin 4) : (s.latchOperands v sd dpi).rx = s.rx := rfl

/-! ### startFrame -/

@[simp] theorem startFrame_phase (s : State) (f : Half) : (s.startFrame f).phase = .l0 := rfl

@[simp] theorem startFrame_mode (s : State) (f : Half) : (s.startFrame f).mode = s.mode := rfl

@[simp] theorem startFrame_frame (s : State) (f : Half) : (s.startFrame f).frame = f := rfl

@[simp] theorem startFrame_k (s : State) (f : Half) : (s.startFrame f).k = 15 := rfl

@[simp] theorem startFrame_pos (s : State) (f : Half) : (s.startFrame f).pos = s.pos := rfl

@[simp] theorem startFrame_val (s : State) (f : Half) : (s.startFrame f).val = s.val := rfl

@[simp] theorem startFrame_sd (s : State) (f : Half) : (s.startFrame f).sd = s.sd := rfl

@[simp] theorem startFrame_dpi (s : State) (f : Half) : (s.startFrame f).dpi = s.dpi := rfl

@[simp] theorem startFrame_result (s : State) (f : Half) : (s.startFrame f).result = s.result := rfl

@[simp] theorem startFrame_rv (s : State) (f : Half) : (s.startFrame f).rv = s.rv := rfl

@[simp] theorem startFrame_fid (s : State) (f : Half) : (s.startFrame f).fid = s.fid := rfl

@[simp] theorem startFrame_fic (s : State) (f : Half) : (s.startFrame f).fic = s.fic := rfl

@[simp] theorem startFrame_data (s : State) (f : Half) : (s.startFrame f).data = s.data := rfl

@[simp] theorem startFrame_clock (s : State) (f : Half) : (s.startFrame f).clock = s.clock := rfl

@[simp] theorem startFrame_latch (s : State) (f : Half) : (s.startFrame f).latch = s.latch := rfl

@[simp] theorem startFrame_env (s : State) (f : Half) : (s.startFrame f).env = s.env := rfl

@[simp] theorem startFrame_trace (s : State) (f : Half) : (s.startFrame f).trace = s.trace := rfl

@[simp] theorem startFrame_reads (s : State) (f : Half) : (s.startFrame f).reads = s.reads := rfl

@[simp] theorem startFrame_rx (s : State) (f : Half) : (s.startFrame f).rx = s.rx := rfl

/-! ### writeResult -/

@[simp] theorem writeResult_phase (s : State) (v : Byte) : (s.writeResult v).phase = s.phase := rfl

@[simp] theorem writeResult_mode (s : State) (v : Byte) : (s.writeResult v).mode = s.mode := rfl

@[simp] theorem writeResult_frame (s : State) (v : Byte) : (s.writeResult v).frame = s.frame := rfl

@[simp] theorem writeResult_k (s : State) (v : Byte) : (s.writeResult v).k = s.k := rfl

@[simp] theorem writeResult_pos (s : State) (v : Byte) : (s.writeResult v).pos = s.pos := rfl

@[simp] theorem writeResult_val (s : State) (v : Byte) : (s.writeResult v).val = s.val := rfl

@[simp] theorem writeResult_sd (s : State) (v : Byte) : (s.writeResult v).sd = s.sd := rfl

@[simp] theorem writeResult_dpi (s : State) (v : Byte) : (s.writeResult v).dpi = s.dpi := rfl

@[simp] theorem writeResult_result (s : State) (v : Byte) : (s.writeResult v).result = v := rfl

@[simp] theorem writeResult_rv (s : State) (v : Byte) : (s.writeResult v).rv = true := rfl

@[simp] theorem writeResult_fid (s : State) (v : Byte) : (s.writeResult v).fid = s.fid := rfl

@[simp] theorem writeResult_fic (s : State) (v : Byte) : (s.writeResult v).fic = s.fic := rfl

@[simp] theorem writeResult_data (s : State) (v : Byte) : (s.writeResult v).data = s.data := rfl

@[simp] theorem writeResult_clock (s : State) (v : Byte) : (s.writeResult v).clock = s.clock := rfl

@[simp] theorem writeResult_latch (s : State) (v : Byte) : (s.writeResult v).latch = s.latch := rfl

@[simp] theorem writeResult_env (s : State) (v : Byte) : (s.writeResult v).env = s.env := rfl

@[simp] theorem writeResult_trace (s : State) (v : Byte) : (s.writeResult v).trace = s.trace := rfl

@[simp] theorem writeResult_reads (s : State) (v : Byte) : (s.writeResult v).reads = s.reads := rfl

@[simp] theorem writeResult_rx (s : State) (v : Byte) : (s.writeResult v).rx = s.rx := rfl

/-! ### raiseInvalidDigit -/

@[simp] theorem raiseInvalidDigit_phase (s : State) (d : BitVec 4) : (s.raise (.invalidDigit d)).phase = s.phase := rfl

@[simp] theorem raiseInvalidDigit_mode (s : State) (d : BitVec 4) : (s.raise (.invalidDigit d)).mode = s.mode := rfl

@[simp] theorem raiseInvalidDigit_frame (s : State) (d : BitVec 4) : (s.raise (.invalidDigit d)).frame = s.frame := rfl

@[simp] theorem raiseInvalidDigit_k (s : State) (d : BitVec 4) : (s.raise (.invalidDigit d)).k = s.k := rfl

@[simp] theorem raiseInvalidDigit_pos (s : State) (d : BitVec 4) : (s.raise (.invalidDigit d)).pos = s.pos := rfl

@[simp] theorem raiseInvalidDigit_val (s : State) (d : BitVec 4) : (s.raise (.invalidDigit d)).val = s.val := rfl

@[simp] theorem raiseInvalidDigit_sd (s : State) (d : BitVec 4) : (s.raise (.invalidDigit d)).sd = s.sd := rfl

@[simp] theorem raiseInvalidDigit_dpi (s : State) (d : BitVec 4) : (s.raise (.invalidDigit d)).dpi = s.dpi := rfl

@[simp] theorem raiseInvalidDigit_result (s : State) (d : BitVec 4) : (s.raise (.invalidDigit d)).result = s.result := rfl

@[simp] theorem raiseInvalidDigit_rv (s : State) (d : BitVec 4) : (s.raise (.invalidDigit d)).rv = s.rv := rfl

@[simp] theorem raiseInvalidDigit_fid (s : State) (d : BitVec 4) : (s.raise (.invalidDigit d)).fid = true := rfl

@[simp] theorem raiseInvalidDigit_fic (s : State) (d : BitVec 4) : (s.raise (.invalidDigit d)).fic = s.fic := rfl

@[simp] theorem raiseInvalidDigit_data (s : State) (d : BitVec 4) : (s.raise (.invalidDigit d)).data = s.data := rfl

@[simp] theorem raiseInvalidDigit_clock (s : State) (d : BitVec 4) : (s.raise (.invalidDigit d)).clock = s.clock := rfl

@[simp] theorem raiseInvalidDigit_latch (s : State) (d : BitVec 4) : (s.raise (.invalidDigit d)).latch = s.latch := rfl

@[simp] theorem raiseInvalidDigit_env (s : State) (d : BitVec 4) : (s.raise (.invalidDigit d)).env = s.env := rfl

@[simp] theorem raiseInvalidDigit_trace (s : State) (d : BitVec 4) : (s.raise (.invalidDigit d)).trace = s.trace := rfl

@[simp] theorem raiseInvalidDigit_reads (s : State) (d : BitVec 4) : (s.raise (.invalidDigit d)).reads = s.reads := rfl

@[simp] theorem raiseInvalidDigit_rx (s : State) (d : BitVec 4) : (s.raise (.invalidDigit d)).rx = s.rx := rfl

/-! ### raiseIllegalCommand -/

@[simp] theorem raiseIllegalCommand_phase (s : State) (w : Word) : (s.raise (.illegalCommand w)).phase = s.phase := rfl

@[simp] theorem raiseIllegalCommand_mode (s : State) (w : Word) : (s.raise (.illegalCommand w)).mode = s.mode := rfl

@[simp] theorem raiseIllegalCommand_frame (s : State) (w : Word) : (s.raise (.illegalCommand w)).frame = s.frame := rfl

@[simp] theorem raiseIllegalCommand_k (s : State) (w : Word) : (s.raise (.illegalCommand w)).k = s.k := rfl

@[simp] theorem raiseIllegalCommand_pos (s : State) (w : Word) : (s.raise (.illegalCommand w)).pos = s.pos := rfl

@[simp] theorem raiseIllegalCommand_val (s : State) (w : Word) : (s.raise (.illegalCommand w)).val = s.val := rfl

@[simp] theorem raiseIllegalCommand_sd (s : State) (w : Word) : (s.raise (.illegalCommand w)).sd = s.sd := rfl

@[simp] theorem raiseIllegalCommand_dpi (s : State) (w : Word) : (s.raise (.illegalCommand w)).dpi = s.dpi := rfl

@[simp] theorem raiseIllegalCommand_result (s : State) (w : Word) : (s.raise (.illegalCommand w)).result = s.result := rfl

@[simp] theorem raiseIllegalCommand_rv (s : State) (w : Word) : (s.raise (.illegalCommand w)).rv = s.rv := rfl

@[simp] theorem raiseIllegalCommand_fid (s : State) (w : Word) : (s.raise (.illegalCommand w)).fid = s.fid := rfl

@[simp] theorem raiseIllegalCommand_fic (s : State) (w : Word) : (s.raise (.illegalCommand w)).fic = true := rfl

@[simp] theorem raiseIllegalCommand_data (s : State) (w : Word) : (s.raise (.illegalCommand w)).data = s.data := rfl

@[simp] theorem raiseIllegalCommand_clock (s : State) (w : Word) : (s.raise (.illegalCommand w)).clock = s.clock := rfl

@[simp] theorem raiseIllegalCommand_latch (s : State) (w : Word) : (s.raise (.illegalCommand w)).latch = s.latch := rfl

@[simp] theorem raiseIllegalCommand_env (s : State) (w : Word) : (s.raise (.illegalCommand w)).env = s.env := rfl

@[simp] theorem raiseIllegalCommand_trace (s : State) (w : Word) : (s.raise (.illegalCommand w)).trace = s.trace := rfl

@[simp] theorem raiseIllegalCommand_reads (s : State) (w : Word) : (s.raise (.illegalCommand w)).reads = s.reads := rfl

@[simp] theorem raiseIllegalCommand_rx (s : State) (w : Word) : (s.raise (.illegalCommand w)).rx = s.rx := rfl

/-! ### applyReset -/

@[simp] theorem applyReset_phase (s : State) : (s.applyReset).phase = .idle := rfl

@[simp] theorem applyReset_mode (s : State) : (s.applyReset).mode = .send := rfl

@[simp] theorem applyReset_frame (s : State) : (s.applyReset).frame = 0x0000 := rfl

@[simp] theorem applyReset_k (s : State) : (s.applyReset).k = 0 := rfl

@[simp] theorem applyReset_pos (s : State) : (s.applyReset).pos = 0 := rfl

@[simp] theorem applyReset_val (s : State) : (s.applyReset).val = 0x0000 := rfl

@[simp] theorem applyReset_sd (s : State) : (s.applyReset).sd = false := rfl

@[simp] theorem applyReset_dpi (s : State) : (s.applyReset).dpi = 0 := rfl

@[simp] theorem applyReset_result (s : State) : (s.applyReset).result = 0xFF := rfl

@[simp] theorem applyReset_rv (s : State) : (s.applyReset).rv = false := rfl

@[simp] theorem applyReset_fid (s : State) : (s.applyReset).fid = false := rfl

@[simp] theorem applyReset_fic (s : State) : (s.applyReset).fic = false := rfl

@[simp] theorem applyReset_data (s : State) : (s.applyReset).data = false := rfl

@[simp] theorem applyReset_clock (s : State) : (s.applyReset).clock = false := rfl

@[simp] theorem applyReset_latch (s : State) : (s.applyReset).latch = false := rfl

@[simp] theorem applyReset_env (s : State) : (s.applyReset).env = s.env := rfl

@[simp] theorem applyReset_trace (s : State) : (s.applyReset).trace = s.trace ++ [.reset] := rfl

@[simp] theorem applyReset_reads (s : State) : (s.applyReset).reads = s.reads := rfl

@[simp] theorem applyReset_rx (s : State) : (s.applyReset).rx = s.rx := rfl

/-! ### takeInputs -/

@[simp] theorem takeInputs_phase (s : State) : (s.takeInputs).phase = s.phase := rfl

@[simp] theorem takeInputs_mode (s : State) : (s.takeInputs).mode = s.mode := rfl

@[simp] theorem takeInputs_frame (s : State) : (s.takeInputs).frame = s.frame := rfl

@[simp] theorem takeInputs_k (s : State) : (s.takeInputs).k = s.k := rfl

@[simp] theorem takeInputs_pos (s : State) : (s.takeInputs).pos = s.pos := rfl

@[simp] theorem takeInputs_val (s : State) : (s.takeInputs).val = s.val := rfl

@[simp] theorem takeInputs_sd (s : State) : (s.takeInputs).sd = s.sd := rfl

@[simp] theorem takeInputs_dpi (s : State) : (s.takeInputs).dpi = s.dpi := rfl

@[simp] theorem takeInputs_result (s : State) : (s.takeInputs).result = s.result := rfl

@[simp] theorem takeInputs_rv (s : State) : (s.takeInputs).rv = s.rv := rfl

@[simp] theorem takeInputs_fid (s : State) : (s.takeInputs).fid = s.fid := rfl

@[simp] theorem takeInputs_fic (s : State) : (s.takeInputs).fic = s.fic := rfl

@[simp] theorem takeInputs_data (s : State) : (s.takeInputs).data = s.data := rfl

@[simp] theorem takeInputs_clock (s : State) : (s.takeInputs).clock = s.clock := rfl

@[simp] theorem takeInputs_latch (s : State) : (s.takeInputs).latch = s.latch := rfl

@[simp] theorem takeInputs_env (s : State) : (s.takeInputs).env = s.env.tail := rfl

@[simp] theorem takeInputs_trace (s : State) : (s.takeInputs).trace = s.trace := rfl

@[simp] theorem takeInputs_reads (s : State) : (s.takeInputs).reads = s.reads ++ s.readValues s.inputs := rfl

@[simp] theorem takeInputs_rx (s : State) : (s.takeInputs).rx = s.rx := rfl

end Sys2Proof.Machine.State
end

