-- ==== Sys2Proof/Laws/Ops.lean ====
section
/-! SUPPORT. What the shared operations do, said once: the receiver under a pin write, STATUS and the ports, the ROMs
and the frame of a position. -/

namespace Sys2Proof.Machine

/-! ### The receiver -/

theorem Receiver.onPin_data (r : Receiver) (d c l b : Bool) : r.onPin d c l .data b = r := rfl

theorem Receiver.onPin_low (r : Receiver) (d c l : Bool) (line : Line) : r.onPin d c l line false = r := by
  cases line <;> rfl

theorem Receiver.onPin_clock_rise (r : Receiver) (d l : Bool) : r.onPin d false l .clock true = r.shift d := rfl

theorem Receiver.onPin_latch_rise (r : Receiver) (d c : Bool) : r.onPin d c false .latch true = r.commit := rfl

theorem Receiver.shift_out (r : Receiver) (d : Bool) : (r.shift d).out = r.out := rfl

theorem Receiver.commit_sr (r : Receiver) : r.commit.sr = r.sr := rfl

theorem Receiver.commit_out (r : Receiver) : r.commit.out = r.sr := rfl

theorem Receiver.shift_sr_getLsbD (r : Receiver) (d : Bool) (j : Nat) :
    (r.shift d).sr.getLsbD j = if j < 1 then d && decide (j = 0) else decide (j < 16) && r.sr.getLsbD (j - 1) := by
  change (r.sr.extractLsb' 0 15 ++ BitVec.ofBool d : BitVec (15 + 1)).getLsbD j = _
  rw [BitVec.getLsbD_append]
  by_cases h : j < 1
  · obtain rfl : j = 0 := by omega
    simp
  · by_cases h' : j - 1 < 15
    · have : j < 16 := by omega
      simp [h, h', this]
    · have : ¬ j < 16 := by omega
      simp [h, h', this]

/-- A shift puts the Data level in bit 0. -/
theorem Receiver.shift_bit_zero (r : Receiver) (d : Bool) : (r.shift d).sr.getLsbD 0 = d := by
  rw [Receiver.shift_sr_getLsbD]; simp

/-- A shift moves every other bit up by one. -/
theorem Receiver.shift_bit_succ (r : Receiver) (d : Bool) {j : Nat} (h : j + 1 < 16) :
    (r.shift d).sr.getLsbD (j + 1) = r.sr.getLsbD j := by
  rw [Receiver.shift_sr_getLsbD]; simp [h]

/-- The shift as a left shift with the Data level in bit 0. -/
theorem Receiver.shift_sr_eq (r : Receiver) (d : Bool) :
    (r.shift d).sr = r.sr <<< 1 ||| (BitVec.ofBool d).setWidth 16 := by
  apply BitVec.eq_of_getLsbD_eq
  intro j hj
  rw [Receiver.shift_sr_getLsbD, BitVec.getLsbD_or, BitVec.getLsbD_shiftLeft, BitVec.getLsbD_setWidth,
    BitVec.getLsbD_ofBool]
  by_cases h : j = 0
  · subst h; cases d <;> simp
  · have h' : ¬ j < 1 := by omega
    simp [h, h']

/-! ### STATUS and the host's side of a step -/

theorem State.busy_iff (s : State) : s.busy = true ↔ s.phase ≠ .idle := by simp [State.busy]

theorem State.cmdReady_iff (s : State) : s.cmdReady = true ↔ s.phase = .idle ∧ s.inputs.rst = false := by
  simp [State.cmdReady, State.busy]

theorem State.inputs_nil {s : State} (h : s.env = []) : s.inputs = {} := by simp [State.inputs, h]

theorem State.inputs_cons {s : State} {i : Inputs} {es : List Inputs} (h : s.env = i :: es) : s.inputs = i := by
  simp [State.inputs, h]

theorem State.resultRead_valid {s : State} (h : s.rv = true) : s.resultRead = .result s.result := by
  simp [State.resultRead, h, State.resultPort]

theorem State.resultRead_invalid {s : State} (h : s.rv = false) : s.resultRead = .noResult := by
  simp [State.resultRead, h]

/-- With no read in the step, the host's record does not grow. -/
theorem State.readValues_none (s : State) {i : Inputs} (h₁ : i.readResult = false) (h₂ : i.readStatus = false) :
    s.readValues i = [] := by simp [State.readValues, h₁, h₂]

/-! ### The ROMs and the frame of a position -/

theorem patternFor_of_le {d : BitVec 4} (h : d ≤ 9) : patternFor d = some (romPat[d.toNat]'(by bv_omega)) := by
  have : d.toNat < 10 := by bv_omega
  simp [patternFor]

theorem patternFor_of_ge {d : BitVec 4} (h : 10 ≤ d) : patternFor d = none := by
  have : 10 ≤ d.toNat := by bv_omega
  simp [patternFor, this]

/-- The select byte of position `i` is `1 << i` (R26). -/
theorem romSel_eq_shift (i : Fin 4) : romSel[i] = 1#8 <<< i.val := by
  revert i; decide

theorem renderFrame_high (v : Half) (sd : Bool) (dpi i : Fin 4) :
    (renderFrame v sd dpi i).extractLsb' 8 8 = renderPattern v sd dpi i := joinBytes_high _ _

theorem renderFrame_low (v : Half) (sd : Bool) (dpi i : Fin 4) :
    (renderFrame v sd dpi i).extractLsb' 0 8 = romSel[i] := joinBytes_low _ _

end Sys2Proof.Machine
end

