-- ==== Sys2Proof/Laws/PerInstr.lean ====
section
/-! SUPPORT. Facts about commands as syntax, one lemma per constructor of Instr. -/

namespace Sys2Proof.Laws.WordShape

/-- The word of a command has its row's opcode and all its reserved bits 0 (30_encoding.md R70). -/
def Statement (i : Instr) : Prop := i.row.covers (encode i) = true

theorem seg (d : BitVec 4) : Statement (.seg d) := by
  unfold Statement; revert d; decide

theorem dp (p : Byte) : Statement (.dp p) := by
  simp only [Statement, Instr.row, OpcodeRow.covers, rowDp, beq_iff_eq]
  apply BitVec.eq_of_getLsbD_eq
  intro j hj
  rw [BitVec.getLsbD_and, encode_dp_getLsbD]
  interval_cases j <;> simp

theorem send (a b : Byte) : Statement (.send a b) := by
  simp only [Statement, Instr.row, OpcodeRow.covers, rowSend, beq_iff_eq]
  apply BitVec.eq_of_getLsbD_eq
  intro j hj
  rw [BitVec.getLsbD_and, encode_send_getLsbD]
  interval_cases j <;> simp

theorem render (v : Half) (sd : Bool) (dpi : Fin 4) : Statement (.render v sd dpi) := by
  simp only [Statement, Instr.row, OpcodeRow.covers, rowRender, beq_iff_eq]
  apply BitVec.eq_of_getLsbD_eq
  intro j hj
  rw [BitVec.getLsbD_and, encode_render_getLsbD]
  interval_cases j <;> simp

end Sys2Proof.Laws.WordShape
end

