-- ==== Sys2Proof/Laws/Step.lean ====
section
/-! SUPPORT. What one step can do, said once: inversion lemmas for `step`, `accept` and `exec`, which later proofs cite
instead of unfolding the machine, and how runs unroll. -/

namespace Sys2Proof.Machine

/-- Everything performing a command can do. -/
theorem exec_next_cases {i : Instr} {s t : State} (h : exec i s = .next t) :
    (∃ d p, i = .seg d ∧ patternFor d = some p ∧ t = s.writeResult p) ∨
    (∃ d, i = .seg d ∧ patternFor d = none ∧ t = s.raise (.invalidDigit d)) ∨
    (∃ p, i = .dp p ∧ t = s.writeResult (withDecimalPoint p)) ∨
    (∃ a b, i = .send a b ∧ t = (s.setMode .send).startFrame (joinBytes a b)) ∨
    (∃ v sd dpi, i = .render v sd dpi ∧
      t = (((s.latchOperands v sd dpi).setPos 0).setMode .render).startFrame (renderFrame v sd dpi 0)) := by
  cases i with
  | seg d =>
    simp only [exec, execSeg] at h
    split at h
    · rename_i p hp; exact .inl ⟨d, p, rfl, hp, by simpa using h.symm⟩
    · rename_i hp; exact .inr (.inl ⟨d, rfl, hp, by simpa using h.symm⟩)
  | dp p => exact .inr (.inr (.inl ⟨p, rfl, by simpa [exec, execDp] using h.symm⟩))
  | send a b => exact .inr (.inr (.inr (.inl ⟨a, b, rfl, by simpa [exec, execSend] using h.symm⟩)))
  | render v sd dpi =>
    exact .inr (.inr (.inr (.inr ⟨v, sd, dpi, rfl, by simpa [exec, execRender] using h.symm⟩)))

/-- Everything accepting a word can do. -/
theorem accept_next_cases {w : Word} {s t : State} (h : accept w s = .next t) :
    (∃ i, decode w = .ok i ∧ exec i s = .next t) ∨
    (∃ e, decode w = .error e ∧ t = s.raise (.illegalCommand w)) := by
  simp only [accept] at h
  split at h
  · exact .inl ⟨_, ‹_›, h⟩
  · exact .inr ⟨_, ‹_›, by simpa using h.symm⟩

theorem accept_of_decode {w : Word} {i : Instr} (h : decode w = .ok i) (s : State) : accept w s = exec i s := by
  simp [accept, h]

theorem accept_of_error {w : Word} {e : DecodeError} (h : decode w = .error e) (s : State) :
    accept w s = .next (s.raise (.illegalCommand w)) := by simp [accept, h]

theorem step_eq_blockStep (s : State) : step s = blockStep s.inputs s.takeInputs := rfl

theorem stepCl_of_pos {s : State} (h : 0 < s.k) :
    stepCl s = ((s.writePin .clock false).setK (s.k - 1)).setPhase .dset := by simp [stepCl, h]

theorem stepCl_of_zero {s : State} (h : s.k = 0) : stepCl s = (s.writePin .clock false).setPhase .l1 := by
  simp [stepCl, h]

theorem stepSettle_of_lt {s : State} (h : s.pos < 3) :
    stepSettle s = (s.setPos (s.pos + 1)).startFrame (renderFrame s.val s.sd s.dpi (s.pos + 1)) := by
  simp [stepSettle, h]

theorem stepSettle_of_last {s : State} (h : s.pos = 3) : stepSettle s = s.setPhase .idle := by
  simp [stepSettle, h]

/-- The sequencer's step: what a busy block does (10_state.md R29); in IDLE, nothing. -/
def sequencerStep (s : State) : State :=
  match s.phase with
  | .idle => s
  | .l0 => stepL0 s
  | .dset => stepDset s
  | .ch => stepCh s
  | .cl => stepCl s
  | .l1 => stepL1 s
  | .settle => stepSettle s

/-- To show something of the sequencer's step, show it of each phase's step. -/
theorem sequencerStep_cases {P : State → Prop} {s : State}
    (idle : s.phase = .idle → P s)
    (l0 : s.phase = .l0 → P (stepL0 s))
    (dset : s.phase = .dset → P (stepDset s))
    (ch : s.phase = .ch → P (stepCh s))
    (clNext : s.phase = .cl → 0 < s.k → P (((s.writePin .clock false).setK (s.k - 1)).setPhase .dset))
    (clDone : s.phase = .cl → s.k = 0 → P ((s.writePin .clock false).setPhase .l1))
    (l1 : s.phase = .l1 → P (stepL1 s))
    (settleNext : s.phase = .settle → s.pos < 3 →
      P ((s.setPos (s.pos + 1)).startFrame (renderFrame s.val s.sd s.dpi (s.pos + 1))))
    (settleDone : s.phase = .settle → s.pos = 3 → P (s.setPhase .idle)) :
    P (sequencerStep s) := by
  unfold sequencerStep
  split
  · exact idle ‹_›
  · exact l0 ‹_›
  · exact dset ‹_›
  · exact ch ‹_›
  · by_cases h : 0 < s.k
    · rw [stepCl_of_pos h]; exact clNext ‹_› h
    · have h0 : s.k = 0 := by simpa using h
      rw [stepCl_of_zero h0]; exact clDone ‹_› h0
  · exact l1 ‹_›
  · by_cases h : s.pos < 3
    · rw [stepSettle_of_lt h]; exact settleNext ‹_› h
    · have h3 : s.pos = 3 := by rw [Fin.lt_def] at h; simp at h; omega
      rw [stepSettle_of_last h3]; exact settleDone ‹_› h3

/-- The sequencer's step leaves the latched operands, the registers and what is outside the block alone. -/
theorem sequencerStep_frame (s : State) :
    let t := sequencerStep s
    t.mode = s.mode ∧ t.val = s.val ∧ t.sd = s.sd ∧ t.dpi = s.dpi ∧ t.result = s.result ∧ t.rv = s.rv ∧
      t.fid = s.fid ∧ t.fic = s.fic ∧ t.env = s.env ∧ t.reads = s.reads := by
  apply sequencerStep_cases (P := fun t => t.mode = s.mode ∧ t.val = s.val ∧ t.sd = s.sd ∧ t.dpi = s.dpi ∧
    t.result = s.result ∧ t.rv = s.rv ∧ t.fid = s.fid ∧ t.fic = s.fic ∧ t.env = s.env ∧ t.reads = s.reads) <;>
    simp [stepL0, stepDset, stepCh, stepL1]

/-- Outside reset and outside IDLE the block takes its sequencer step, whatever is offered. -/
theorem blockStep_busy {i : Inputs} {s : State} (hr : i.rst = false) (hp : s.phase ≠ .idle) :
    blockStep i s = .next (sequencerStep s) := by
  simp only [blockStep, sequencerStep, hr]
  cases h : s.phase <;> simp_all

/-- A step of the busy block, out of reset. -/
theorem step_busy {s : State} (hr : s.inputs.rst = false) (hp : s.phase ≠ .idle) :
    step s = .next (sequencerStep s.takeInputs) := by
  rw [step_eq_blockStep]
  exact blockStep_busy hr (by simpa using hp)

/-- An accepting step is the acceptance of the offered word. -/
theorem step_accepting {s : State} (ha : s.acceptsWord = true) :
    step s = accept s.inputs.cmd s.takeInputs := by
  simp only [State.acceptsWord, Bool.and_eq_true, State.cmdReady_iff] at ha
  obtain ⟨hv, hp, hr⟩ := ha
  have hp' : s.takeInputs.phase = .idle := hp
  rw [step_eq_blockStep]
  simp only [blockStep, hr, hp', hv, if_true]
  rfl

/-- Everything one step can do when it answers a next state. -/
theorem step_next_cases {s t : State} (h : step s = .next t) :
    (s.inputs.rst = true ∧ t = s.takeInputs.applyReset) ∨
    (s.inputs.rst = false ∧ s.phase = .idle ∧ s.inputs.cmdValid = false ∧ t = s.takeInputs) ∨
    (s.inputs.rst = false ∧ s.phase = .idle ∧ s.inputs.cmdValid = true ∧
      accept s.inputs.cmd s.takeInputs = .next t) ∨
    (s.inputs.rst = false ∧ s.phase ≠ .idle ∧ t = sequencerStep s.takeInputs) := by
  rw [step_eq_blockStep] at h
  by_cases hr : s.inputs.rst = true
  · exact .inl ⟨hr, by simpa [blockStep, hr] using h.symm⟩
  · have hr : s.inputs.rst = false := by simpa using hr
    by_cases hp : s.phase = .idle
    · by_cases hv : s.inputs.cmdValid = true
      · exact .inr (.inr (.inl ⟨hr, hp, hv, by simpa [blockStep, hr, hp, hv] using h⟩))
      · exact .inr (.inl ⟨hr, hp, by simpa using hv, by simpa [blockStep, hr, hp, hv] using h.symm⟩)
    · rw [blockStep_busy hr (by simpa using hp)] at h
      exact .inr (.inr (.inr ⟨hr, hp, by simpa using h.symm⟩))

/-- Performing a command always answers a next state, and keeps the host's side. -/
theorem exec_total (i : Instr) (s : State) : ∃ t, exec i s = .next t ∧ t.env = s.env ∧ t.reads = s.reads := by
  cases i with
  | seg d =>
    simp only [exec, execSeg]
    split
    · exact ⟨_, rfl, rfl, rfl⟩
    · exact ⟨_, rfl, rfl, rfl⟩
  | dp p => exact ⟨_, rfl, rfl, rfl⟩
  | send a b => exact ⟨_, rfl, rfl, rfl⟩
  | render v sd dpi => exact ⟨_, rfl, rfl, rfl⟩

/-- The block's step always answers a next state, and keeps the host's side, in a reset step too. -/
theorem blockStep_total (i : Inputs) (s : State) :
    ∃ t, blockStep i s = .next t ∧ t.env = s.env ∧ t.reads = s.reads := by
  by_cases hr : i.rst = true
  · exact ⟨s.applyReset, by simp [blockStep, hr], rfl, rfl⟩
  · have hr : i.rst = false := by simpa using hr
    by_cases hp : s.phase = .idle
    · by_cases hv : i.cmdValid = true
      · cases hd : decode i.cmd with
        | ok j => simpa [blockStep, hr, hp, hv, accept, hd] using exec_total j s
        | error e => exact ⟨s.raise (.illegalCommand i.cmd), by simp [blockStep, hr, hp, hv, accept, hd], rfl, rfl⟩
      · exact ⟨s, by simp [blockStep, hr, hp, hv], rfl, rfl⟩
    · obtain ⟨_, _, _, _, _, _, _, _, he, hs⟩ := sequencerStep_frame s
      exact ⟨_, blockStep_busy hr hp, he, hs⟩

/-- Every step answers a next state, in which the step's inputs are used up and its reads recorded. -/
theorem step_total (s : State) :
    ∃ t, step s = .next t ∧ t.env = s.env.tail ∧ t.reads = s.reads ++ s.readValues s.inputs :=
  blockStep_total s.inputs s.takeInputs

/-! ### Runs -/

theorem runSteps_zero (s : State) : runSteps 0 s = .next s := rfl

theorem runSteps_succ {s t : State} (n : Nat) (h : step s = .next t) : runSteps (n + 1) s = runSteps n t := by
  rw [runSteps, h]

/-- A run is the run of its first `m` steps followed by the rest. -/
theorem runSteps_add {s t : State} {m : Nat} (n : Nat) (h : runSteps m s = .next t) :
    runSteps (m + n) s = runSteps n t := by
  induction m generalizing s with
  | zero =>
    obtain rfl : s = t := by simpa [runSteps_zero] using h
    simp
  | succ m ih =>
    rw [runSteps] at h
    cases hs : step s with
    | next s' =>
      rw [hs] at h
      rw [show m + 1 + n = (m + n) + 1 by omega, runSteps_succ _ hs]
      exact ih h
    | fault r => simp [hs] at h
    | refused r => simp [hs] at h

end Sys2Proof.Machine
end

