-- ==== Sys2Proof/Laws/Runs.lean ====
section
/-! SUPPORT. How an undisturbed busy block runs to IDLE: the number of steps it still takes and the events it still
writes, both read off its state, and what one step does to them. -/

namespace Sys2Proof.Machine

/-! ### Undisturbed stretches -/

theorem undisturbed_zero (s : State) : s.undisturbed 0 = true := by simp [State.undisturbed]

/-- The first step of an undisturbed stretch is out of reset. -/
theorem undisturbed_succ {s : State} {n : Nat} (h : s.undisturbed (n + 1) = true) : s.inputs.rst = false := by
  unfold State.undisturbed at h
  unfold State.inputs
  cases he : s.env with
  | nil => rfl
  | cons i es =>
    simp only [he, List.take_succ_cons, List.all_cons, Bool.and_eq_true] at h
    simpa using h.1

/-- The rest of an undisturbed stretch is undisturbed in a state that has used up one input. -/
theorem undisturbed_tail {s t : State} {n : Nat} (h : s.undisturbed (n + 1) = true) (he : t.env = s.env.tail) :
    t.undisturbed n = true := by
  unfold State.undisturbed at *
  rw [he]
  cases hs : s.env with
  | nil => simp
  | cons i es =>
    simp only [hs, List.take_succ_cons, List.all_cons, Bool.and_eq_true] at h
    simpa using h.2

theorem undisturbed_mono {s : State} {m n : Nat} (hmn : m ≤ n) (h : s.undisturbed n = true) :
    s.undisturbed m = true := by
  unfold State.undisturbed at *
  rw [List.all_eq_true] at *
  exact fun i hi => h i (List.take_subset_take_left _ hmn hi)

/-! ### What is left to do -/

/-- Steps left after the current frame: none in a SEND, the rest of the scan in a RENDER. -/
def stepsAfterFrame : Mode → Nat → Nat
  | .send, _ => 0
  | .render, p => 1 + 51 * (3 - p)

/-- Steps the block still takes before it is in IDLE. -/
def stepsLeft (s : State) : Nat :=
  match s.phase with
  | .idle => 0
  | .l0 => 3 * s.k.val + 5 + stepsAfterFrame s.mode s.pos.val
  | .dset => 3 * s.k.val + 4 + stepsAfterFrame s.mode s.pos.val
  | .ch => 3 * s.k.val + 3 + stepsAfterFrame s.mode s.pos.val
  | .cl => 3 * s.k.val + 2 + stepsAfterFrame s.mode s.pos.val
  | .l1 => 1 + stepsAfterFrame s.mode s.pos.val
  | .settle => 1 + if s.pos.val < 3 then 50 + stepsAfterFrame s.mode (s.pos.val + 1) else 0

/-- Every step of a busy block leaves one step less. -/
theorem stepsLeft_sequencerStep {s : State} (hp : s.phase ≠ .idle) :
    stepsLeft (sequencerStep s) + 1 = stepsLeft s := by
  apply sequencerStep_cases (P := fun t => stepsLeft t + 1 = stepsLeft s)
  · exact fun h => absurd h hp
  · intro h; simp [stepsLeft, h, stepL0]; omega
  · intro h; simp [stepsLeft, h, stepDset]; omega
  · intro h; simp [stepsLeft, h, stepCh]; omega
  · intro h hk
    have : (s.k - 1).val + 1 = s.k.val := by rw [Fin.lt_def] at hk; simp at hk; omega
    simp only [stepsLeft, h, State.setPhase_phase, State.setPhase_k, State.setK_k, State.setPhase_mode,
      State.setPhase_pos, State.setK_mode, State.setK_pos, State.writePin_mode, State.writePin_pos]
    omega
  · intro h hk; simp [stepsLeft, h, hk]; omega
  · intro h
    cases hm : s.mode
    · simp [stepsLeft, h, stepL1, hm, afterCommit, stepsAfterFrame]
    · have := s.pos.isLt
      simp only [stepsLeft, h, stepL1, hm, afterCommit, stepsAfterFrame, State.setPhase_phase, State.setPhase_pos,
        State.setPhase_mode, State.writePin_pos, State.writePin_mode]
      split <;> omega
  · intro h hlt
    have h3 : s.pos.val < 3 := by rw [Fin.lt_def] at hlt; simpa using hlt
    have : (s.pos + 1).val = s.pos.val + 1 := by omega
    simp [stepsLeft, h, h3, this]; omega
  · intro h h3; simp [stepsLeft, h, h3]

theorem stepsLeft_le (s : State) : stepsLeft s ≤ 204 := by
  have hk := s.k.isLt
  have hp := s.pos.isLt
  unfold stepsLeft
  cases s.mode <;> simp only [stepsAfterFrame] <;> split <;> (try split) <;> omega

theorem stepsLeft_eq_zero_iff (s : State) : stepsLeft s = 0 ↔ s.phase = .idle := by
  unfold stepsLeft
  cases h : s.phase <;> simp

/-- The events left after the current frame. -/
def eventsAfterFrame (s : State) : Mode → Nat → List Event
  | .send, _ => []
  | .render, p =>
    (if p < 1 then frameTrace (renderFrame s.val s.sd s.dpi 1) else []) ++
      (if p < 2 then frameTrace (renderFrame s.val s.sd s.dpi 2) else []) ++
      (if p < 3 then frameTrace (renderFrame s.val s.sd s.dpi 3) else [])

/-- The events a busy block still writes before it is in IDLE, in a settle hold those of a RENDER. -/
def eventsLeft (s : State) : List Event :=
  match s.phase with
  | .idle => []
  | .l0 => [.pin .latch false] ++ bitsTrace s.frame (s.k.val + 1) ++ [.pin .latch true] ++ eventsAfterFrame s s.mode s.pos.val
  | .dset => bitsTrace s.frame (s.k.val + 1) ++ [.pin .latch true] ++ eventsAfterFrame s s.mode s.pos.val
  | .ch =>
    [.pin .clock true, .pin .clock false] ++ bitsTrace s.frame s.k.val ++ [.pin .latch true] ++
      eventsAfterFrame s s.mode s.pos.val
  | .cl => [.pin .clock false] ++ bitsTrace s.frame s.k.val ++ [.pin .latch true] ++ eventsAfterFrame s s.mode s.pos.val
  | .l1 => [.pin .latch true] ++ eventsAfterFrame s s.mode s.pos.val
  | .settle => eventsAfterFrame s .render s.pos.val

/-- A step moves the first event left to the end of the trace. -/
theorem trace_eventsLeft_sequencerStep {s : State} (hm : s.phase = .settle → s.mode = .render) :
    (sequencerStep s).trace ++ eventsLeft (sequencerStep s) = s.trace ++ eventsLeft s := by
  apply sequencerStep_cases (P := fun t => t.trace ++ eventsLeft t = s.trace ++ eventsLeft s)
  · exact fun _ => rfl
  · intro h; cases hm : s.mode <;> simp [eventsLeft, h, stepL0, eventsAfterFrame, hm]
  · intro h; cases hm : s.mode <;> simp [eventsLeft, h, stepDset, eventsAfterFrame, hm, bitsTrace, bitTrace]
  · intro h; cases hm : s.mode <;> simp [eventsLeft, h, stepCh, eventsAfterFrame, hm]
  · intro h hk
    have : (s.k - 1).val + 1 = s.k.val := by rw [Fin.lt_def] at hk; simp at hk; omega
    cases hm : s.mode <;> simp [eventsLeft, h, eventsAfterFrame, hm, this]
  · intro h hk; cases hm : s.mode <;> simp [eventsLeft, h, hk, eventsAfterFrame, hm, bitsTrace]
  · intro h; cases hm : s.mode <;> simp [eventsLeft, h, stepL1, eventsAfterFrame, hm, afterCommit]
  · intro h hlt
    have hm := hm h
    have h3 : s.pos.val < 3 := by rw [Fin.lt_def] at hlt; simpa using hlt
    obtain h0 | h1 | h2 : s.pos = 0 ∨ s.pos = 1 ∨ s.pos = 2 := by omega
    · simp [eventsLeft, h, h0, eventsAfterFrame, hm, frameTrace]
    · simp [eventsLeft, h, h1, eventsAfterFrame, hm, frameTrace]
    · simp [eventsLeft, h, h2, eventsAfterFrame, hm, frameTrace]
  · intro h h3; simp [eventsLeft, h, h3, eventsAfterFrame]

end Sys2Proof.Machine
end

