-- ==== Sys2Proof/Tests/Slice0.lean ====
section
/-! SUPPORT. The model's own tests: words written out from the spec's encodings, the well-formedness checks, one or two
single steps per command against the spec's vectors (95_test_vectors.md), and a state meeting the hypotheses of each
statement of Certificates/Slice0/Obligations.lean. -/

namespace Sys2Proof.Tests

open Sys2Proof.Machine

/-- Right after reset, with one word offered. -/
def offering (w : Word) : State := { State.reset with env := [{ cmdValid := true, cmd := w }] }

/-- In the middle of the frame 0xA401 of a RENDER, in a phase and at a bit. -/
def midFrame (p : Phase) (k : Fin 16) : State :=
  { State.reset with phase := p, k := k, mode := .render, frame := 0xA401, val := 1234, rv := true, latch := false }

/-- Something of the next state, none where the step stops. -/
def viewNext {α : Type} (o : Host.Outcome State Fault Refusal) (f : State → α) : Option α :=
  match o with
  | .next t => some (f t)
  | .fault _ => none
  | .refused _ => none

/-! ### Decoding, from the bit patterns of R64 to R67 -/

theorem test_decode_seg : decode 0b0001_0000_0000_0000_0000_0000_0000_0111 = .ok (.seg 7) := by decide
theorem test_decode_dp : decode 0b0010_0000_0000_0000_0000_0000_1111_1000 = .ok (.dp 0xF8) := by decide
theorem test_decode_send : decode 0b0011_0000_0000_0000_1010_0100_0000_0001 = .ok (.send 0xA4 0x01) := by decide
theorem test_decode_render : decode 0b0100_0000_0000_0101_0000_0001_0001_0011 = .ok (.render 275 true 1) := by decide
theorem test_decode_render_sd_clear :
    decode 0b0100_0000_0000_0011_0000_0100_1101_0010 = .ok (.render 1234 false 3) := by decide
theorem test_decode_zero : decode 0 = .error (.illegalOpcode 0x0) := by decide
theorem test_encode_render : encode (.render 8888 true 3) = 0x400722B8 := by decide
theorem test_table_word : decodeTableWord 32 0x3000A401 = some (.send 0xA4 0x01) := by decide
theorem test_table_word_illegal : decodeTableWord 32 0x50000000 = none := by decide

/-! ### The well-formedness checks refuse each kind of ill-formed term -/

theorem test_legal_opcode_zero : legalWord 0x00000000 = false := by decide
theorem test_legal_opcode_five : legalWord 0x50000000 = false := by decide
theorem test_legal_opcode_fifteen : legalWord 0xFFFFFFFF = false := by decide
theorem test_legal_seg_reserved : legalWord 0x10000010 = false := by decide
theorem test_legal_dp_reserved : legalWord 0x20000100 = false := by decide
theorem test_legal_send_reserved : legalWord 0x3001A401 = false := by decide
theorem test_legal_render_reserved : legalWord 0x40080000 = false := by decide
theorem test_legal_words : [0x1000000F, 0x200000FF, 0x3000FFFF, 0x4007FFFF].all legalWord = true := by decide

theorem test_source_seg_range : (Source.seg 16).assemble = none := by decide
theorem test_source_dp_range : (Source.dp 256).assemble = none := by decide
theorem test_source_send_range : (Source.send 256 0).assemble = none ∧ (Source.send 0 256).assemble = none := by decide
theorem test_source_render_range :
    (Source.render 65536 .omitted).assemble = none ∧ (Source.render 0 (.dp 4)).assemble = none := by decide
theorem test_source_word_range : (Source.word 0x100000000).assemble = none := by decide

/-! ### The assembler (R74, R75) -/

theorem test_assemble_line :
    assembleText ['R', 'E', 'N', 'D', 'E', 'R', ' ', '2', '7', '5', ',', ' ', 'd', 'p', '=', '1', ' ', ';', 'V'] =
      some [0x40050113] := by decide
theorem test_assemble_hex :
    assembleText ['S', 'E', 'N', 'D', ' ', '0', 'x', 'A', '4', ',', ' ', '0', 'x', '0', '1', '\n'] =
      some [0x3000A401] := by decide
theorem test_assemble_default_point :
    assembleText ['R', 'E', 'N', 'D', 'E', 'R', ' ', '5', ',', ' ', 'd', 'p', '=', '-', '1'] = some [0x40000005] := by
  decide
theorem test_disassemble_unprintable : disassemble 0x400304D2 = .word 0x400304D2 := by decide
theorem test_print_parse :
    parseLine (disassemble 0x400722B8).print = some (some (.render 8888 (.dp 3))) := by decide

/-! ### One step of each kind, against the spec's vectors -/

/-- V-E: SEG 7 gives RESULT 0xF8, STATUS 0x02. -/
theorem test_seg : viewNext (step (offering 0x10000007)) (fun t => (t.result, t.status)) = some (0xF8, 0x02) := by decide
/-- V-E: SEG 10 leaves RESULT 0xFF, STATUS 0x04. -/
theorem test_seg_invalid : viewNext (step (offering 0x1000000A)) (fun t => (t.result, t.status)) = some (0xFF, 0x04) := by
  decide
/-- V-D1: DP 0xF8 gives RESULT 0x78, STATUS 0x02. -/
theorem test_dp : viewNext (step (offering 0x200000F8)) (fun t => (t.result, t.status)) = some (0x78, 0x02) := by decide
/-- R83: SEND 0xA4, 0x01 is accepted into L0, busy, with no pin event. -/
theorem test_send :
    viewNext (step (offering 0x3000A401)) (fun t => (t.frame, t.phase, t.status, t.trace)) =
      some (0xA401, .l0, 0x01, [.reset]) := by decide
/-- V-S2: the first frame of RENDER 275, dp=1. -/
theorem test_render :
    viewNext (step (offering 0x40050113)) (fun t => (t.frame, t.mode, t.pos, t.k)) = some (0xC001, .render, 0, 15) := by
  decide
/-- V-S2 and V-S6: all four frames. -/
theorem test_render_frames :
    [0, 1, 2, 3].map (renderFrame 275 true 1) = [0xC001, 0x2402, 0xF804, 0x9208] ∧
      [0, 1, 2, 3].map (renderFrame 65535 false 0) = [0x9201, 0x9202, 0xB004, 0x9208] := by decide
/-- V-I: a reserved bit and an invalid digit: IllegalCommand only. -/
theorem test_illegal : viewNext (step (offering 0x1000001A)) (fun t => (t.result, t.status)) = some (0xFF, 0x08) := by
  decide
/-- V-R2: a reset during a settle hold. -/
theorem test_reset :
    viewNext (step { midFrame .settle 0 with env := [{ rst := true }] })
      (fun t => (t.phase, t.mode, t.val, t.status, t.trace)) = some (.idle, .send, 0, 0x00, [.reset, .reset]) := by decide
/-- V-F1: the first events of SEND 0xA4, 0x01. -/
theorem test_send_trace :
    viewNext (runSteps 5 (offering 0x3000A401)) (fun t => t.trace) =
      some [.reset, .pin .latch false, .pin .data true, .pin .clock true, .pin .clock false] := by decide
/-- V-R1: SR after six new bits 1,0,0,0,0,0 over 0xC001. -/
theorem test_receiver_shift :
    ([true, false, false, false, false, false].foldl Receiver.shift ⟨0xC001, 0xC001⟩) = ⟨0x0060, 0xC001⟩ := by decide
/-- R58: OUT[7:0] selects the digit, OUT[15:8] its segments, active-low. -/
theorem test_receiver_display :
    (Receiver.mk 0 0x2402).digitLit 1 = true ∧ (Receiver.mk 0 0x2402).digitLit 0 = false ∧
      (Receiver.mk 0 0x2402).segmentOn 7 = true ∧ (Receiver.mk 0 0xA402).segmentOn 7 = false := by decide

/-! ### Witnesses for the statements' hypotheses -/

theorem witness_EncodeOfDecodeIsTheWord : decode 0x4007FFFF = .ok (.render 0xFFFF true 3) := by decide

theorem witness_WordsAreOneFormatOrIllegal :
    rowSeg ∈ opcodeRows ∧ rowSeg.covers 0x1000000F = true ∧ decode 0x1000000F = .ok (.seg 15) := by decide

theorem witness_IllegalWordsAreRejectedByName :
    opcode 0x0FFFFFFF = 0x0 ∧ 0x5 ≤ opcode 0x50000000 ∧ 0x5 ≤ opcode 0xFFFFFFFF ∧
      (opcode 0x10000010 = 0x1 ∧ (0x10000010 : Word) &&& 0x0FFFFFF0 ≠ 0) ∧
      (opcode 0x28000000 = 0x2 ∧ (0x28000000 : Word) &&& 0x0FFFFF00 ≠ 0) ∧
      (opcode 0x30010000 = 0x3 ∧ (0x30010000 : Word) &&& 0x0FFF0000 ≠ 0) ∧
      (opcode 0x40080000 = 0x4 ∧ (0x40080000 : Word) &&& 0x0FF80000 ≠ 0) := by decide

theorem witness_AssemblyOfDisassemblyIsTheWord :
    decode 0x1000000F = .ok (.seg 15) ∧ decode 0x200000FF = .ok (.dp 0xFF) ∧
      decode 0x3000FFFF = .ok (.send 0xFF 0xFF) ∧ decode 0x4007FFFF = .ok (.render 0xFFFF true 3) ∧
      decode 0x4000FFFF = .ok (.render 0xFFFF false 0) ∧ decode 0x400304D2 = .ok (.render 1234 false 3) ∧
      (3 : Fin 4) ≠ 0 ∧ decode 0xFFFFFFFF = .error (.illegalOpcode 0xF) := by decide

theorem witness_AssemblerReadsNumbersCommentsAndLines :
    ['A', '4'].map Char.toLower = Nat.toDigits 16 0xA4 ∧ ['f', 'F'].map Char.toLower = Nat.toDigits 16 0xFF ∧
      '\n' ∉ ['D', 'P', ' ', '1'] := by decide

theorem witness_SegWritesThePatternOfADigit : (0 : BitVec 4) ≤ 9 ∧ (9 : BitVec 4) ≤ 9 := by decide

theorem witness_SegOfAnInvalidDigitCompletes : (10 : BitVec 4) ≤ 10 ∧ (10 : BitVec 4) ≤ 15 := by decide

theorem witness_InvalidDigitIsRaisedBySegAlone :
    (offering 0x1000000A).inputs.rst = false ∧
      (offering 0x1000000A).accepts (.seg 10) ∧ (10 : BitVec 4) ≤ 10 := ⟨rfl, ⟨rfl, by decide⟩, by decide⟩

theorem witness_InvalidDigit_other :
    (offering 0x10000009).accepts (.seg 9) ∧ ∀ d, (offering 0x10000009).accepts (.seg d) → d < 10 := by
  refine ⟨⟨rfl, by decide⟩, fun d h => ?_⟩
  have h9 : decode 0x10000009 = .ok (.seg 9) := by decide
  obtain rfl : 9 = d := by simpa using h9.symm.trans h.2
  decide

theorem witness_ResultIsWrittenOnlyBySegAndDp :
    (offering 0x10000003).inputs.rst = false ∧
      viewNext (step (offering 0x10000003)) (fun t => decide (t.result ≠ (offering 0x10000003).result)) = some true := by
  decide

theorem witness_StepRunsTheDecodedCommand :
    (offering 0x40000000).inputs.rst = false ∧
      (offering 0x40000000).phase = .idle ∧ (offering 0x40000000).inputs.cmdValid = true ∧
      decode (offering 0x40000000).inputs.cmd = .ok (.render 0 false 0) := by decide

theorem witness_OfferedTableWordRunsNext : decode 0x200000FF = .ok (.dp 0xFF) := by decide

theorem witness_IllegalCommandIsRaisedByIllegalWordsAlone :
    [0x00000000, 0x50000000, 0xFFFFFFFF, 0x10000010, 0x20000100, 0x3001A401, 0x40080000].all (fun w =>
      !(offering w).inputs.rst && (offering w).acceptsWord && !legalWord w) = true := by decide

theorem witness_IllegalCommand_other :
    (offering 0x10000000).acceptsWord = true ∧ legalWord (offering 0x10000000).inputs.cmd = true := by decide

theorem witness_OneStepRaisesAtMostOneFault :
    (offering 0x1000001A).inputs.rst = false ∧ (offering 0x1000001A).acceptsWord = true ∧
      opcode (offering 0x1000001A).inputs.cmd = 0x1 ∧ (offering 0x1000001A).inputs.cmd &&& 0x0FFFFFF0 ≠ 0 ∧
      (viewNext (step (offering 0x1000001A)) fun t => t.fic) = some true := by decide

theorem witness_OnlyResetClearsStickyBits :
    let s := { offering 0x10000000 with rv := true, fid := true, fic := true }
    s.inputs.rst = false ∧ (viewNext (step s) fun t => t.fid && t.fic) = some true := by decide

theorem witness_ResetStepGivesTheResetValues :
    let s := { midFrame .ch 9 with env := [{ rst := true, cmdValid := true, cmd := 0x10000000 }] }
    s.inputs.rst = true ∧ { State.reset with env := [{ rst := true, readResult := true }] }.inputs.rst = true := by
  decide

theorem witness_IdleWithNothingOfferedKeepsTheState :
    State.reset.inputs.rst = false ∧ State.reset.phase = .idle ∧
      State.reset.inputs.cmdValid = false := by decide

theorem witness_CommandPortIsSampledOnlyAtAcceptance :
    let i : Inputs := { cmdValid := true, cmd := 0x10000000 }
    let j : Inputs := { cmdValid := true, cmd := 0x50000000 }
    i.rst = j.rst ∧ i.readResult = j.readResult ∧ i.readStatus = j.readStatus ∧ (midFrame .l0 15).phase ≠ .idle ∧
      ({ i with rst := true } : Inputs).rst = true ∧ ({ i with cmdValid := false } : Inputs).cmdValid = false := by decide

theorem witness_ReadsHaveNoSideEffect :
    let i : Inputs := { readResult := true, readStatus := true }
    viewNext (step { midFrame .settle 0 with env := [{ i with readResult := false, readStatus := false }] })
      (fun t => t.pos) = some 1 := by decide

theorem witness_ReadOfInvalidResultIsAFault :
    let i : Inputs := { readResult := true, rst := true }
    State.reset.rv = false ∧ i.readResult = true := by decide

theorem witness_frame_steps :
    [Phase.l0, .dset, .ch, .cl, .l1, .settle].all (fun p =>
      !(midFrame p 0).inputs.rst && decide ((midFrame p 0).phase = p)) = true := by decide

theorem witness_StepClDrivesClockLowAndCounts :
    (midFrame .cl 15).k.val = (14 : Fin 16).val + 1 ∧ (midFrame .cl 1).k.val = (0 : Fin 16).val + 1 ∧
      (midFrame .cl 0).k.val = 0 := by decide

theorem witness_SettleEndTakesTheNextPosition :
    (1 : Fin 4).val = (midFrame .settle 0).pos.val + 1 ∧ (3 : Fin 4).val = { midFrame .settle 0 with pos := 2 }.pos.val + 1 ∧
      { midFrame .settle 0 with pos := 3 }.pos = 3 := by decide

theorem witness_EachStepAppendsItsOneEvent :
    [Phase.idle, .l0, .dset, .ch, .cl, .l1, .settle].map
        (fun p => viewNext (step (midFrame p 0)) fun t => t.trace.length) =
      [some 1, some 2, some 2, some 2, some 2, some 2, some 1] := by decide

theorem witness_BusyStepsKeepOperandsAndRegisters :
    (midFrame .cl 0).inputs.rst = false ∧ (midFrame .cl 0).phase ≠ .idle ∧
      (viewNext (step (midFrame .cl 0)) fun t => t.val) = some 1234 := by decide

theorem witness_SendIsItsFrameInFiftyOneSteps :
    (offering 0x3000A401).accepts (.send 0xA4 0x01) ∧ (offering 0x3000A401).clock = false ∧
      (offering 0x3000A401).undisturbed 51 = true := ⟨⟨rfl, by decide⟩, rfl, rfl⟩

theorem witness_RenderIsFourFramesInOrder :
    (offering 0x40050113).accepts (.render 275 true 1) ∧ (offering 0x40050113).clock = false ∧
      (offering 0x40050113).undisturbed 205 = true ∧ (offering 0x40050113).undisturbed (51 * (3 + 1)) = true :=
  ⟨⟨rfl, by decide⟩, rfl, rfl, rfl⟩

theorem witness_ReceiverChangesOnlyAtItsRisingEdges :
    let s := { midFrame .ch 15 with data := true }
    let t := { midFrame .l1 0 with rx := ⟨0xA401, 0x0000⟩ }
    (viewNext (step s) fun u => decide (u.rx.sr ≠ s.rx.sr)) = some true ∧
      (viewNext (step t) fun u => decide (u.rx.out ≠ t.rx.out)) = some true := by decide

theorem witness_ReceiverIsTheReplayOfTheTrace :
    let s := { State.reset with phase := .ch, data := true, trace := [.reset, .pin .data true] }
    Wire.replay ⟨0, 0⟩ s.trace = s.wire ∧ (viewNext (step s) fun t => t.rx.sr) = some 1 := by decide

/-- A RENDER in its first settle hold, as its frame has just been committed. -/
def settled : State :=
  { State.reset with
    phase := .settle, mode := .render, val := 275, sd := true, dpi := 1, frame := 0xC001, latch := true, data := true
    rx := ⟨0xC001, 0xC001⟩ }

theorem witness_StepKeepsTheMachineInvariant :
    settled.Inv ∧ (viewNext (step settled) fun t => t.frame) = some 0x2402 := by
  refine ⟨⟨⟨?_, ?_, ?_, ?_, ?_⟩, ⟨?_, ?_, ?_, ?_⟩, ⟨?_, ?_, ?_, ?_⟩⟩, by decide⟩ <;> simp [settled] <;> decide

theorem witness_BusyBlockReachesIdle : (midFrame .l0 15).undisturbed 204 = true := rfl

/-- Inputs that hold one illegal word, with a read of result in each. -/
def held : Inputs := { cmdValid := true, cmd := 0x50000000, readResult := true }

theorem witness_HeldOfferIsAcceptedWithinOneRender :
    let s := { midFrame .l0 15 with env := List.replicate 205 held }
    205 ≤ s.env.length ∧ s.undisturbed 205 = true ∧
      ∀ x ∈ s.env.take 205, x.cmdValid = true ∧ x.cmd = 0x50000000 := by
  have hx : ∀ x ∈ (List.replicate 205 held).take 205, x = held :=
    fun x h => List.eq_of_mem_replicate (List.mem_of_mem_take h)
  refine ⟨Nat.le_of_eq List.length_replicate.symm, List.all_eq_true.2 fun x h => ?_, fun x h => ?_⟩
  · rw [hx x h]; rfl
  · rw [hx x h]; exact ⟨rfl, rfl⟩

/-! ### The end of a run -/

/-- SEG 12, then a reset: R135 ends the run at IDLE before the reset, with FID = 1, so the run is faulted. -/
def faultThenReset : State := { offering 0x1000000C with env := [{ cmdValid := true, cmd := 0x1000000C }, { rst := true }] }

theorem test_run_ends_before_a_trailing_reset :
    (endOfRun 3 faultThenReset).map (fun t => (t.phase, t.fid)) = some (.idle, true) ∧
      goodRun 3 faultThenReset = false := by decide

/-- R108: a read of result while RV = 0 has no value, and the block takes its step: a reset step resets (R122). -/
theorem test_invalid_read_in_a_reset_step :
    viewNext (step { midFrame .ch 9 with rv := false, env := [{ rst := true, readResult := true, readStatus := true }] })
      (fun t => (t.phase, t.result, t.trace, t.reads)) =
        some (.idle, 0xFF, [.reset, .reset], [.noResult, .status 0x01]) := by decide
/-- R108, R135: the block goes on after such a read, and the run is faulted, although neither flag is set. -/
theorem test_invalid_read_makes_the_run_bad :
    let s := { State.reset with env := [{ readResult := true }, { cmdValid := true, cmd := 0x10000007 }] }
    (endOfRun 3 s).map (fun t => (t.result, t.status, t.faulted)) = some (0xF8, 0x02, true) ∧ goodRun 3 s = false := by
  decide

/-- P1: the host must not read result at the end of a run that has written none. -/
theorem test_read_after_the_last_command :
    { State.reset with env := [{ readResult := true }] }.runEnded = true ∧
      { State.reset with env := [{ readResult := true }] }.goodFinal = false := by decide

theorem witness_EndOfRunIsTheFirstEndedState :
    (endOfRun 3 (offering 0x10000003)).map (fun t => (t.result, t.status)) = some (0xB0, 0x02) := by decide

theorem witness_EndedRunKeepsItsObservation :
    State.reset.runEnded = true ∧ State.reset.inputs.rst = false ∧
      (viewNext (step State.reset) fun t => t.observe) = some State.reset.observe := by decide

theorem witness_GoodFinalStatesStayGoodAndNeverStop :
    { State.reset with rv := true, env := [{ readResult := true }, { rst := true }] }.goodFinal = true := by decide

theorem witness_FaultedStatesMakeTheRunBad : goodRun 3 (offering 0x10000003) = true := by decide

end Sys2Proof.Tests
end

section
/-! The scope's statements (00_scope.md): the event a step appends to the pin trace, and the length of a settle hold. -/

namespace Sys2Proof.Machine

/-! ### The event of a step -/

/-- The pin events of the block's step out of reset: one per frame phase, none in IDLE and SETTLE (20_memory.md R50,
41_framer.md R92). -/
def phaseEvents (s : State) : List Event :=
  match s.phase with
  | .idle => []
  | .l0 => [.pin .latch false]
  | .dset => [.pin .data (s.frame.getLsbD s.k.val)]
  | .ch => [.pin .clock true]
  | .cl => [.pin .clock false]
  | .l1 => [.pin .latch true]
  | .settle => []

@[simp] theorem phaseEvents_takeInputs (s : State) : phaseEvents s.takeInputs = phaseEvents s := rfl

theorem phaseEvents_idle {s : State} (h : s.phase = .idle) : phaseEvents s = [] := by simp [phaseEvents, h]

/-- The sequencer's step writes the pin of its phase, also where CL takes the next bit and SETTLE the next position. -/
theorem sequencerStep_trace (s : State) : (sequencerStep s).trace = s.trace ++ phaseEvents s := by
  apply sequencerStep_cases (P := fun t => t.trace = s.trace ++ phaseEvents s)
  case idle | settleDone => intros; simp [phaseEvents, *]
  case l0 => intro h; simp [phaseEvents, h, stepL0]
  case dset => intro h; simp [phaseEvents, h, stepDset]
  case ch => intro h; simp [phaseEvents, h, stepCh]
  case l1 => intro h; simp [phaseEvents, h, stepL1]
  case clNext | clDone | settleNext => intro h _; simp [phaseEvents, h]

/-- Performing a command writes no pin: SEND and RENDER only latch what the frame steps will write. -/
theorem exec_trace {i : Instr} {s t : State} (h : exec i s = .next t) : t.trace = s.trace := by
  obtain ⟨_, _, _, _, rfl⟩ | ⟨_, _, _, rfl⟩ | ⟨_, _, rfl⟩ | ⟨_, _, _, rfl⟩ | ⟨_, _, _, _, rfl⟩ := exec_next_cases h
  all_goals rfl

/-- Accepting a word writes no pin, be it legal or illegal. -/
theorem accept_trace {w : Word} {s t : State} (h : accept w s = .next t) : t.trace = s.trace := by
  obtain ⟨i, _, he⟩ | ⟨_, _, rfl⟩ := accept_next_cases h
  · exact exec_trace he
  · rfl

/-- A step extends the trace by the RESET event in reset, and by the events of its phase otherwise. -/
theorem step_trace {s t : State} (h : step s = .next t) :
    t.trace = s.trace ++ if s.inputs.rst then [.reset] else phaseEvents s := by
  obtain ⟨hr, rfl⟩ | ⟨hr, hp, _, rfl⟩ | ⟨hr, hp, _, ha⟩ | ⟨hr, _, rfl⟩ := step_next_cases h
  · simp [hr]
  · simp [hr, phaseEvents_idle hp]
  · simp [hr, phaseEvents_idle hp, accept_trace ha]
  · simp [hr, sequencerStep_trace]

/-- Settles O37: the case split of `step_trace` over what a step can do. -/
theorem eachStepAppendsItsOneEvent : Obligations.EachStepAppendsItsOneEvent :=
  fun _ _ h => step_trace h

end Sys2Proof.Machine

namespace Sys2Proof.Config

/-! ### The length of a settle hold -/

/-- Rounding the quotient by 1000 up never loses a part of it, and the slack only adds to it (R113, D17). -/
theorem settle_time_le_settleCycles : tSettleMs * fClkHz ≤ settleCycles * 1000 := by
  unfold settleCycles
  omega

/-- Settles O50: SETTLE_CYCLES is rounded up, whatever the clock frequency. -/
theorem settleCyclesAreAtLeastTheSettleTime : Obligations.SettleCyclesAreAtLeastTheSettleTime :=
  ⟨rfl, settle_time_le_settleCycles⟩

end Sys2Proof.Config
end

section
/-! The state's statements (10_state.md): STATUS and the start of a run, which steps write the registers, and when the
command port is sampled. -/

namespace Sys2Proof.Machine

/-! ### STATUS, bit by bit (R28) -/

/-- BUSY, RV, FID and FIC from bit 0 up, then the hard-wired zeros. -/
theorem State.status_getLsbD (s : State) (j : Nat) :
    s.status.getLsbD j = [s.busy, s.rv, s.fid, s.fic].getD j false := by
  simp only [State.status, BitVec.getLsbD_append, BitVec.getLsbD_ofBool]
  match j with
  | 0 | 1 | 2 | 3 => simp
  | j + 4 => simp

theorem State.status_high (s : State) : s.status.extractLsb' 4 4 = 0 := by
  apply BitVec.eq_of_getLsbD_eq
  intro j _
  simp [s.status_getLsbD, Nat.add_comm 4 j]

/-- Settles O30: the bits of STATUS by `State.status_getLsbD`, and `cmd_ready` by `State.cmdReady_iff`. -/
theorem statusByteLayout : Obligations.StatusByteLayout := fun s =>
  ⟨by rw [s.status_getLsbD, ← s.busy_iff]; rfl, s.status_getLsbD 1, s.status_getLsbD 2, s.status_getLsbD 3,
    s.status_high, s.cmdReady_iff⟩

/-! ### The start of a run (R34) -/

/-- STATUS reads 0 where the block is in IDLE with RV, FID and FIC clear. -/
theorem State.status_eq_zero {s : State} (hp : s.phase = .idle) (hrv : s.rv = false) (hfid : s.fid = false)
    (hfic : s.fic = false) : s.status = 0x00 := by
  simp [State.status, State.busy, hp, hrv, hfid, hfic]

/-- Settles O24: `State.powerUp` sets only the receiver and the coming inputs over the reset values. -/
theorem runsStartFromTheResetValues : Obligations.RunsStartFromTheResetValues :=
  ⟨fun _ _ => ⟨rfl, rfl, rfl, rfl, rfl, rfl, rfl, rfl, rfl, rfl, rfl, rfl, rfl, rfl, rfl,
      State.status_eq_zero rfl rfl rfl rfl, rfl, rfl, rfl⟩,
    State.reset.rx, rfl⟩

/-! ### Which steps write RESULT and RV (R27) -/

/-- The byte a command writes into RESULT, if it writes one: SEG of a digit (R76) and DP (R78) do. -/
def resultOf : Instr → Option Byte
  | .seg d => patternFor d
  | .dp p => some (withDecimalPoint p)
  | .send _ _ => none
  | .render _ _ _ => none

/-- A digit that has a pattern is at most 9. -/
theorem le_nine_of_patternFor {d : BitVec 4} {p : Byte} (h : patternFor d = some p) : d ≤ 9 := by
  by_contra hd
  have hge : 10 ≤ d := by bv_omega
  simp [patternFor_of_ge hge] at h

/-- The commands that write RESULT are SEG of a digit at most 9 and DP. -/
theorem resultOf_eq_some_iff {i : Instr} {v : Byte} :
    resultOf i = some v ↔
      (∃ d, i = .seg d ∧ d ≤ 9 ∧ patternFor d = some v) ∨ (∃ p, i = .dp p ∧ v = withDecimalPoint p) := by
  cases i with
  | seg d => simpa [resultOf] using le_nine_of_patternFor
  | dp p => simp [resultOf, eq_comm]
  | send a b => simp [resultOf]
  | render v sd dpi => simp [resultOf]

/-- A command writes its byte into RESULT and sets RV, or leaves both alone. -/
theorem exec_result_rv {i : Instr} {s t : State} (h : exec i s = .next t) :
    (t.result = s.result ∧ t.rv = s.rv) ∨ (resultOf i = some t.result ∧ t.rv = true) := by
  obtain ⟨d, p, rfl, hp, rfl⟩ | ⟨_, _, _, rfl⟩ | ⟨p, rfl, rfl⟩ | ⟨_, _, _, rfl⟩ | ⟨_, _, _, _, rfl⟩ :=
    exec_next_cases h
  · exact .inr ⟨hp, rfl⟩
  · exact .inl ⟨rfl, rfl⟩
  · exact .inr ⟨rfl, rfl⟩
  · exact .inl ⟨rfl, rfl⟩
  · exact .inl ⟨rfl, rfl⟩

theorem State.accepts_of_decode {s : State} {i : Instr} (hr : s.inputs.rst = false) (hp : s.phase = .idle)
    (hv : s.inputs.cmdValid = true) (hd : decode s.inputs.cmd = .ok i) : s.accepts i :=
  ⟨by simp [State.acceptsWord, hv, s.cmdReady_iff.2 ⟨hp, hr⟩], hd⟩

/-- Out of reset a step leaves RESULT and RV alone, or it accepts a command that writes them. -/
theorem step_result_rv {s t : State} (hr : s.inputs.rst = false) (h : step s = .next t) :
    (t.result = s.result ∧ t.rv = s.rv) ∨ (∃ i, s.accepts i ∧ resultOf i = some t.result ∧ t.rv = true) := by
  obtain ⟨hr', _⟩ | ⟨_, _, _, rfl⟩ | ⟨_, hp, hv, ha⟩ | ⟨_, _, rfl⟩ := step_next_cases h
  · simp [hr] at hr'
  · exact .inl ⟨rfl, rfl⟩
  · obtain ⟨i, hd, he⟩ | ⟨_, _, rfl⟩ := accept_next_cases ha
    · exact (exec_result_rv he).imp_right fun hw => ⟨i, State.accepts_of_decode hr hp hv hd, hw⟩
    · exact .inl ⟨rfl, rfl⟩
  · obtain ⟨_, _, _, _, hres, hrv, _⟩ := sequencerStep_frame s.takeInputs
    exact .inl ⟨hres, hrv⟩

/-- Settles O13: a step that changes RESULT or RV accepted a command with a byte to write. -/
theorem resultIsWrittenOnlyBySegAndDp : Obligations.ResultIsWrittenOnlyBySegAndDp := by
  intro s t hr h hne
  obtain ⟨hres, hrv⟩ | ⟨i, hacc, hw, hrv⟩ := step_result_rv hr h
  · simp [hres, hrv] at hne
  · refine ⟨hrv, ?_⟩
    obtain ⟨d, rfl, hd, hp⟩ | ⟨p, rfl, hp⟩ := resultOf_eq_some_iff.1 hw
    · exact .inl ⟨d, hacc, hd, hp⟩
    · exact .inr ⟨p, hacc, hp⟩

/-! ### The sticky bits (R28, R112) -/

/-- From `s` to `t` none of RV, FID and FIC is cleared. -/
def State.KeepsStickyBits (s t : State) : Prop :=
  (s.rv = true → t.rv = true) ∧ (s.fid = true → t.fid = true) ∧ (s.fic = true → t.fic = true)

theorem State.keepsStickyBits_of_eq {s t : State} (hrv : t.rv = s.rv) (hfid : t.fid = s.fid) (hfic : t.fic = s.fic) :
    s.KeepsStickyBits t := ⟨hrv.trans, hfid.trans, hfic.trans⟩

theorem State.keepsStickyBits_writeResult (s : State) (v : Byte) : s.KeepsStickyBits (s.writeResult v) :=
  ⟨fun _ => rfl, id, id⟩

/-- Raising a fault sets its flag and clears none. -/
theorem State.keepsStickyBits_raise (s : State) (f : Raised) : s.KeepsStickyBits (s.raise f) := by
  cases f with
  | invalidDigit d => exact ⟨id, fun _ => rfl, id⟩
  | illegalCommand w => exact ⟨id, id, fun _ => rfl⟩

theorem exec_keepsStickyBits {i : Instr} {s t : State} (h : exec i s = .next t) : s.KeepsStickyBits t := by
  obtain ⟨_, _, _, _, rfl⟩ | ⟨_, _, _, rfl⟩ | ⟨_, _, rfl⟩ | ⟨_, _, _, rfl⟩ | ⟨_, _, _, _, rfl⟩ := exec_next_cases h
  · exact s.keepsStickyBits_writeResult _
  · exact s.keepsStickyBits_raise _
  · exact s.keepsStickyBits_writeResult _
  · exact State.keepsStickyBits_of_eq rfl rfl rfl
  · exact State.keepsStickyBits_of_eq rfl rfl rfl

theorem accept_keepsStickyBits {w : Word} {s t : State} (h : accept w s = .next t) : s.KeepsStickyBits t := by
  obtain ⟨_, _, he⟩ | ⟨_, _, rfl⟩ := accept_next_cases h
  · exact exec_keepsStickyBits he
  · exact s.keepsStickyBits_raise _

/-- Settles O22: only the reset case of a step clears a sticky bit. -/
theorem onlyResetClearsStickyBits : Obligations.OnlyResetClearsStickyBits := by
  intro s t hr h
  obtain ⟨hr', _⟩ | ⟨_, _, _, rfl⟩ | ⟨_, _, _, ha⟩ | ⟨_, _, rfl⟩ := step_next_cases h
  · simp [hr] at hr'
  · exact State.keepsStickyBits_of_eq rfl rfl rfl
  · exact accept_keepsStickyBits (s := s.takeInputs) ha
  · obtain ⟨_, _, _, _, _, hrv, hfid, hfic, _⟩ := sequencerStep_frame s.takeInputs
    exact State.keepsStickyBits_of_eq hrv hfid hfic

/-! ### What a busy step leaves alone (R24, R30) -/

/-- Settles O38: a busy step is the sequencer's, whose frame `sequencerStep_frame` gives. -/
theorem busyStepsKeepOperandsAndRegisters : Obligations.BusyStepsKeepOperandsAndRegisters := by
  intro s t hr hp h
  obtain rfl : sequencerStep s.takeInputs = t := by simpa [step_busy hr hp] using h
  obtain ⟨hmode, hval, hsd, hdpi, hres, hrv, hfid, hfic, _⟩ := sequencerStep_frame s.takeInputs
  exact ⟨hmode, hval, hsd, hdpi, hres, hrv, hfid, hfic⟩

/-! ### When the command port is sampled (R21) -/

theorem blockStep_reset {i : Inputs} (s : State) (hr : i.rst = true) : blockStep i s = .next s.applyReset := by
  simp [blockStep, hr]

theorem blockStep_idle_unoffered {i : Inputs} {s : State} (hr : i.rst = false) (hp : s.phase = .idle)
    (hv : i.cmdValid = false) : blockStep i s = .next s := by
  simp [blockStep, hr, hp, hv]

/-- In reset, while busy, and with nothing offered, `rst` is the only input the block's step depends on. -/
theorem blockStep_congr {i j : Inputs} {s : State} (hrst : i.rst = j.rst)
    (h : i.rst = true ∨ s.phase ≠ .idle ∨ (i.cmdValid = false ∧ j.cmdValid = false)) :
    blockStep i s = blockStep j s := by
  cases hr : i.rst with
  | true => rw [blockStep_reset s hr, blockStep_reset s (hrst ▸ hr)]
  | false =>
    by_cases hp : s.phase = .idle
    · obtain ⟨hi, hj⟩ : i.cmdValid = false ∧ j.cmdValid = false := by simpa [hr, hp] using h
      rw [blockStep_idle_unoffered hr hp hi, blockStep_idle_unoffered (hrst ▸ hr) hp hj]
    · rw [blockStep_busy hr hp, blockStep_busy (hrst ▸ hr) hp]

/-- What the host records depends on the step's read flags only. -/
theorem State.readValues_congr (s : State) {i j : Inputs} (hres : i.readResult = j.readResult)
    (hst : i.readStatus = j.readStatus) : s.readValues i = s.readValues j := by
  simp [State.readValues, hres, hst]

/-- Settles O26: the host's side of the two steps is the same, and so is the block's by `blockStep_congr`. -/
theorem commandPortIsSampledOnlyAtAcceptance : Obligations.CommandPortIsSampledOnlyAtAcceptance := by
  intro s i j es hrst hres hst h
  calc step { s with env := i :: es }
      = blockStep i { s with env := es, reads := s.reads ++ s.readValues i } := rfl
    _ = blockStep j { s with env := es, reads := s.reads ++ s.readValues i } := blockStep_congr hrst h
    _ = blockStep j { s with env := es, reads := s.reads ++ s.readValues j } := by
        rw [s.readValues_congr hres hst]
    _ = step { s with env := j :: es } := rfl

end Sys2Proof.Machine
end

section
/-! The memory's statements (20_memory.md): the lines and the receiver follow the pin trace, the receiver's two rising
edges, the frame it holds after a SEND, and host reads without a side effect. -/

namespace Sys2Proof.Machine

/-! ### The lines and the receiver under the state's operations -/

@[simp] theorem wire_rx (s : State) : s.wire.rx = s.rx := rfl

@[simp] theorem takeInputs_wire (s : State) : s.takeInputs.wire = s.wire := rfl

@[simp] theorem setPhase_wire (s : State) (p : Phase) : (s.setPhase p).wire = s.wire := rfl

@[simp] theorem setK_wire (s : State) (i : Fin 16) : (s.setK i).wire = s.wire := rfl

@[simp] theorem setPos_wire (s : State) (p : Fin 4) : (s.setPos p).wire = s.wire := rfl

@[simp] theorem startFrame_wire (s : State) (f : Half) : (s.startFrame f).wire = s.wire := rfl

theorem raise_wire (s : State) (f : Raised) : (s.raise f).wire = s.wire := by cases f <;> rfl

/-- The receiver of the block's pin writes and the receiver of the replay are the same one. -/
@[simp] theorem writePin_wire (s : State) (l : Line) (b : Bool) :
    (s.writePin l b).wire = s.wire.observe (.pin l b) := by
  cases l with
  | data => rfl
  | clock => cases hc : s.clock <;> cases b <;>
      simp [State.wire, Wire.observe, hc, Receiver.onPin, ← Receiver.shift_sr_eq, Receiver.shift]
  | latch => cases hl : s.latch <;> cases b <;> simp [State.wire, Wire.observe, hl, Receiver.onPin, Receiver.commit]

theorem applyReset_wire (s : State) : s.applyReset.wire = s.wire.observe .reset := rfl

/-! ### Every step plays its events on the lines and the receiver -/

/-- From `s` to `t` the trace gains the events `es`, and `es` played on the lines and the receiver of `s` gives those
of `t`. -/
def State.Emits (s : State) (es : List Event) (t : State) : Prop :=
  t.trace = s.trace ++ es ∧ t.wire = es.foldl Wire.observe s.wire

theorem State.Emits.refl (s : State) : s.Emits [] s := ⟨(List.append_nil _).symm, rfl⟩

theorem State.Emits.trans {s t u : State} {es es' : List Event} (h : s.Emits es t) (h' : t.Emits es' u) :
    s.Emits (es ++ es') u :=
  ⟨by rw [h'.1, h.1, List.append_assoc], by rw [h'.2, h.2, List.foldl_append]⟩

/-- What the trace of `s` replays to is carried over to `t`. -/
theorem State.Emits.replay {s t : State} {es : List Event} {r : Receiver} (h : s.Emits es t)
    (hs : Wire.replay r s.trace = s.wire) : Wire.replay r t.trace = t.wire := by
  obtain ⟨htrace, hwire⟩ := h
  rw [htrace, hwire, ← hs, Wire.replay, List.foldl_append, Wire.replay]

/-- The events of a whole step: RESET in reset, the events of the phase otherwise. -/
def stepEvents (s : State) : List Event := if s.inputs.rst then [.reset] else phaseEvents s

theorem stepEvents_of_reset {s : State} (hr : s.inputs.rst = true) : stepEvents s = [.reset] := by
  simp [stepEvents, hr]

theorem stepEvents_of_running {s : State} (hr : s.inputs.rst = false) : stepEvents s = phaseEvents s := by
  simp [stepEvents, hr]

/-- The sequencer's step plays the pin event of its phase. -/
theorem sequencerStep_wire (s : State) :
    (sequencerStep s).wire = (phaseEvents s).foldl Wire.observe s.wire := by
  apply sequencerStep_cases (P := fun t => t.wire = (phaseEvents s).foldl Wire.observe s.wire)
  case idle | settleDone => intros; simp [phaseEvents, *]
  case l0 => intro h; simp [phaseEvents, h, stepL0]
  case dset => intro h; simp [phaseEvents, h, stepDset]
  case ch => intro h; simp [phaseEvents, h, stepCh]
  case l1 => intro h; simp [phaseEvents, h, stepL1]
  case clNext | clDone | settleNext => intro h _; simp [phaseEvents, h]

theorem exec_wire {i : Instr} {s t : State} (h : exec i s = .next t) : t.wire = s.wire := by
  obtain ⟨_, _, _, _, rfl⟩ | ⟨_, _, _, rfl⟩ | ⟨_, _, rfl⟩ | ⟨_, _, _, rfl⟩ | ⟨_, _, _, _, rfl⟩ := exec_next_cases h
  all_goals rfl

/-- Accepting a word moves no line and leaves the receiver alone. -/
theorem accept_wire {w : Word} {s t : State} (h : accept w s = .next t) : t.wire = s.wire := by
  obtain ⟨_, _, he⟩ | ⟨_, _, rfl⟩ := accept_next_cases h
  · exact exec_wire he
  · exact raise_wire _ _

theorem step_wire {s t : State} (h : step s = .next t) :
    t.wire = (stepEvents s).foldl Wire.observe s.wire := by
  obtain ⟨hr, rfl⟩ | ⟨hr, hp, _, rfl⟩ | ⟨hr, hp, _, ha⟩ | ⟨hr, _, rfl⟩ := step_next_cases h
  · simp [stepEvents_of_reset hr, applyReset_wire]
  · simp [stepEvents_of_running hr, phaseEvents_idle hp]
  · simp [stepEvents_of_running hr, phaseEvents_idle hp, accept_wire ha]
  · simp [stepEvents_of_running hr, sequencerStep_wire]

theorem step_emits {s t : State} (h : step s = .next t) : s.Emits (stepEvents s) t := ⟨step_trace h, step_wire h⟩

/-- Settles O45: at the start the lines are low, as the RESET event leaves them, and each step's events carry the
replay along by `step_emits`. -/
theorem receiverIsTheReplayOfTheTrace : Obligations.ReceiverIsTheReplayOfTheTrace :=
  ⟨fun _ _ => rfl, fun _ _ _ hs h => (step_emits h).replay hs⟩

/-! ### The receiver's two rising edges (R58) -/

/-- Only a rise of CLOCK changes the shift register: it shifts DATA in. -/
theorem Wire.observe_sr (w : Wire) (e : Event) :
    (w.observe e).rx.sr = w.rx.sr ∨
      (e = .pin .clock true ∧ w.clock = false ∧
        (w.observe e).rx.sr = w.rx.sr <<< 1 ||| (BitVec.ofBool w.data).setWidth 16) := by
  match e with
  | .reset | .pin .data _ => exact .inl rfl
  | .pin .clock b =>
    by_cases h : w.clock = false ∧ b = true
    · exact .inr ⟨by rw [h.2], h.1, by simp [Wire.observe, h]⟩
    · exact .inl (by simp [Wire.observe, h])
  | .pin .latch b => exact .inl (by simp only [Wire.observe]; split <;> rfl)

/-- Only a rise of LATCH changes the output register: it copies the shift register. -/
theorem Wire.observe_out (w : Wire) (e : Event) :
    (w.observe e).rx.out = w.rx.out ∨
      (e = .pin .latch true ∧ w.latch = false ∧ (w.observe e).rx.out = w.rx.sr) := by
  match e with
  | .reset | .pin .data _ => exact .inl rfl
  | .pin .clock b => exact .inl (by simp only [Wire.observe]; split <;> rfl)
  | .pin .latch b =>
    by_cases h : w.latch = false ∧ b = true
    · exact .inr ⟨by rw [h.2], h.1, by simp [Wire.observe, h]⟩
    · exact .inl (by simp [Wire.observe, h])

theorem phaseEvents_eq_nil_or_singleton (s : State) : phaseEvents s = [] ∨ ∃ e, phaseEvents s = [e] := by
  unfold phaseEvents
  cases s.phase <;> simp

/-- CH is the one phase that drives CLOCK high. -/
theorem phase_of_clock_high {s : State} (h : phaseEvents s = [.pin .clock true]) : s.phase = .ch := by
  unfold phaseEvents at h
  cases hp : s.phase <;> simp [hp] at h ⊢

/-- L1 is the one phase that drives LATCH high. -/
theorem phase_of_latch_high {s : State} (h : phaseEvents s = [.pin .latch true]) : s.phase = .l1 := by
  unfold phaseEvents at h
  cases hp : s.phase <;> simp [hp] at h ⊢

/-- A step that writes a pin is out of reset, and the write is its phase's. -/
theorem phaseEvents_of_stepEvents_pin {s : State} {l : Line} {b : Bool} (h : stepEvents s = [.pin l b]) :
    s.inputs.rst = false ∧ phaseEvents s = [.pin l b] := by
  cases hr : s.inputs.rst with
  | true => simp [stepEvents_of_reset hr] at h
  | false => exact ⟨rfl, stepEvents_of_running hr ▸ h⟩

theorem stepEvents_eq_nil_or_singleton (s : State) : stepEvents s = [] ∨ ∃ e, stepEvents s = [e] := by
  cases hr : s.inputs.rst with
  | true => exact .inr ⟨.reset, stepEvents_of_reset hr⟩
  | false => rw [stepEvents_of_running hr]; exact phaseEvents_eq_nil_or_singleton s

/-- A step leaves the lines and the receiver alone, or plays its one event on them. -/
theorem step_wire_cases {s t : State} (h : step s = .next t) :
    t.wire = s.wire ∨ ∃ e, stepEvents s = [e] ∧ t.wire = s.wire.observe e := by
  have hwire := step_wire h
  obtain he | ⟨e, he⟩ := stepEvents_eq_nil_or_singleton s
  · exact .inl (by rw [hwire, he]; rfl)
  · exact .inr ⟨e, he, by rw [hwire, he]; rfl⟩

/-- Settles O44: the event of a step that changes SR is a rise of CLOCK and that of one that changes OUT a rise of
LATCH, and only CH and L1 write these. -/
theorem receiverChangesOnlyAtItsRisingEdges : Obligations.ReceiverChangesOnlyAtItsRisingEdges := by
  intro s t h
  obtain hw | ⟨e, he, hw⟩ := step_wire_cases h
  · have hrx : t.rx = s.rx := congrArg Wire.rx hw
    simp [hrx]
  · have hrx : t.rx = (s.wire.observe e).rx := congrArg Wire.rx hw
    rw [hrx]
    refine ⟨fun hne => ?_, fun hne => ?_⟩
    · obtain ⟨rfl, hc, hsr⟩ := (s.wire.observe_sr e).resolve_left hne
      obtain ⟨hr, hphase⟩ := phaseEvents_of_stepEvents_pin he
      exact ⟨hr, phase_of_clock_high hphase, hc, hsr⟩
    · obtain ⟨rfl, hl, hout⟩ := (s.wire.observe_out e).resolve_left hne
      obtain ⟨hr, hphase⟩ := phaseEvents_of_stepEvents_pin he
      exact ⟨hr, phase_of_latch_high hphase, hl, hout⟩

/-! ### A frame played on the receiver (R59) -/

/-- The bit `b` driven on DATA and shifted in. -/
def Wire.shiftIn (w : Wire) (b : Bool) : Wire := { w with data := b, rx := w.rx.shift b }

/-- The three events of a bit, CLOCK low before them, shift the bit in. -/
theorem foldl_observe_bitTrace (f : Half) (k : Nat) {w : Wire} (hc : w.clock = false) :
    (bitTrace f k).foldl Wire.observe w = w.shiftIn (f.getLsbD k) := by
  obtain ⟨d, c, l, r⟩ := w
  obtain rfl : c = false := hc
  simp [bitTrace, Wire.observe, Wire.shiftIn, ← Receiver.shift_sr_eq, Receiver.shift]

/-- The events of the bits do not touch LATCH. -/
theorem foldl_observe_bitsTrace_latch (f : Half) (n : Nat) {w : Wire} (hc : w.clock = false) :
    ((bitsTrace f n).foldl Wire.observe w).latch = w.latch := by
  induction n generalizing w with
  | zero => rfl
  | succ n ih =>
    rw [bitsTrace, List.foldl_append, foldl_observe_bitTrace f n hc]
    exact ih (w := w.shiftIn (f.getLsbD n)) hc

/-- The events of the low `n` bits put these in SR's low bits and move what SR held up by `n`. -/
theorem foldl_observe_bitsTrace_sr (f : Half) (n : Nat) {w : Wire} (hc : w.clock = false) {j : Nat} (hj : j < 16) :
    ((bitsTrace f n).foldl Wire.observe w).rx.sr.getLsbD j =
      if j < n then f.getLsbD j else w.rx.sr.getLsbD (j - n) := by
  induction n generalizing w with
  | zero => simp [bitsTrace]
  | succ n ih =>
    rw [bitsTrace, List.foldl_append, foldl_observe_bitTrace f n hc, ih (w := w.shiftIn (f.getLsbD n)) hc,
      show (w.shiftIn (f.getLsbD n)).rx = w.rx.shift (f.getLsbD n) from rfl]
    obtain hlt | rfl | hgt := Nat.lt_trichotomy j n
    · rw [if_pos hlt, if_pos (by omega)]
    · rw [if_neg (lt_irrefl j), if_pos (by omega), Nat.sub_self, Receiver.shift_bit_zero]
    · rw [if_neg (by omega), if_neg (by omega), show j - n = (j - (n + 1)) + 1 by omega]
      exact w.rx.shift_bit_succ _ (by omega)

/-- All 16 bits of a frame replace whatever SR held. -/
theorem foldl_observe_bitsTrace_full (f : Half) {w : Wire} (hc : w.clock = false) :
    ((bitsTrace f 16).foldl Wire.observe w).rx.sr = f :=
  BitVec.eq_of_getLsbD_eq fun j hj => by rw [foldl_observe_bitsTrace_sr f 16 hc hj, if_pos hj]

/-- A frame played with CLOCK low is in SR and OUT at its end, whatever they held. -/
theorem foldl_observe_frameTrace_rx (f : Half) {w : Wire} (hc : w.clock = false) :
    ((frameTrace f).foldl Wire.observe w).rx = ⟨f, f⟩ := by
  have hc' : (w.observe (.pin .latch false)).clock = false := hc
  have hlatch := foldl_observe_bitsTrace_latch f 16 hc'
  have hsr := foldl_observe_bitsTrace_full f hc'
  simp only [frameTrace, List.foldl_append, List.foldl_cons, List.foldl_nil]
  generalize (bitsTrace f 16).foldl Wire.observe (w.observe (.pin .latch false)) = v at hsr hlatch
  simp [Wire.observe, hlatch, hsr]

/-! ### Undisturbed runs of a busy block -/

/-- The events a run appends are those played on its lines and receiver. -/
theorem runSteps_emits {n : Nat} {s t : State} (h : runSteps n s = .next t) : ∃ es, s.Emits es t := by
  induction n generalizing s with
  | zero =>
    obtain rfl : s = t := by simpa [runSteps_zero] using h
    exact ⟨[], .refl s⟩
  | succ n ih =>
    obtain ⟨u, hu, _⟩ := step_total s
    obtain ⟨es, hes⟩ := ih (runSteps_succ n hu ▸ h)
    exact ⟨_, (step_emits hu).trans hes⟩

/-- The sequencer goes to SETTLE in a RENDER only (R29). -/
theorem sequencerStep_settle_mode (s : State) :
    (sequencerStep s).phase = .settle → (sequencerStep s).mode = .render := by
  apply sequencerStep_cases (P := fun t => t.phase = .settle → t.mode = .render)
  case idle => intro h; simp [h]
  case l1 => intro _; cases hm : s.mode <;> simp [stepL1, hm, afterCommit]
  case l0 | dset | ch => intro _; simp [stepL0, stepDset, stepCh]
  case clNext | clDone | settleNext | settleDone => intro _ _; simp

/-- An undisturbed busy block takes the steps it has left and moves the events it has left to the trace. -/
theorem busy_run {n : Nat} {s : State} (hm : s.phase = .settle → s.mode = .render) (hn : n ≤ stepsLeft s)
    (hu : s.undisturbed n = true) :
    ∃ t, runSteps n s = .next t ∧ stepsLeft t + n = stepsLeft s ∧
      t.trace ++ eventsLeft t = s.trace ++ eventsLeft s := by
  induction n generalizing s with
  | zero => exact ⟨s, runSteps_zero s, rfl, rfl⟩
  | succ n ih =>
    have hp : s.phase ≠ .idle := fun h => by rw [(stepsLeft_eq_zero_iff s).2 h] at hn; omega
    have hstep := step_busy (undisturbed_succ hu) hp
    have hleft : stepsLeft (sequencerStep s.takeInputs) + 1 = stepsLeft s :=
      stepsLeft_sequencerStep (s := s.takeInputs) hp
    have hevents : (sequencerStep s.takeInputs).trace ++ eventsLeft (sequencerStep s.takeInputs) =
        s.trace ++ eventsLeft s := trace_eventsLeft_sequencerStep (s := s.takeInputs) hm
    obtain ⟨_, _, _, _, _, _, _, _, henv, _⟩ := sequencerStep_frame s.takeInputs
    obtain ⟨t, hrun, hcount, htrace⟩ :=
      ih (sequencerStep_settle_mode _) (by omega) (undisturbed_tail hu henv)
    exact ⟨t, (runSteps_succ n hstep).trans hrun, by omega, htrace.trans hevents⟩

/-- A busy block left undisturbed for all its steps comes to IDLE, its events left emitted. -/
theorem busy_run_to_idle {s : State} (hm : s.phase = .settle → s.mode = .render)
    (hu : s.undisturbed (stepsLeft s) = true) :
    ∃ t, runSteps (stepsLeft s) s = .next t ∧ t.phase = .idle ∧ s.Emits (eventsLeft s) t := by
  obtain ⟨t, hrun, hcount, htrace⟩ := busy_run hm le_rfl hu
  have hidle : t.phase = .idle := (stepsLeft_eq_zero_iff t).1 (by omega)
  have hnone : eventsLeft t = [] := by simp [eventsLeft, hidle]
  obtain ⟨es, hes⟩ := runSteps_emits hrun
  rw [hnone, List.append_nil, hes.1] at htrace
  exact ⟨t, hrun, hidle, List.append_cancel_left htrace ▸ hes⟩

/-! ### A complete SEND (R59, R89) -/

/-- The state after the step that accepts a SEND. -/
def sendAccepted (s : State) (a b : Byte) : State := (s.takeInputs.setMode .send).startFrame (joinBytes a b)

theorem step_send {s : State} {a b : Byte} (h : s.accepts (.send a b)) : step s = .next (sendAccepted s a b) := by
  obtain ⟨hacc, hdec⟩ := h
  rw [step_accepting hacc, accept_of_decode hdec]
  rfl

theorem sendAccepted_stepsLeft (s : State) (a b : Byte) : stepsLeft (sendAccepted s a b) = 50 := rfl

theorem sendAccepted_eventsLeft (s : State) (a b : Byte) :
    eventsLeft (sendAccepted s a b) = frameTrace (joinBytes a b) := by
  simp [sendAccepted, eventsLeft, eventsAfterFrame, frameTrace]

/-- A SEND left undisturbed emits its frame and is in IDLE after 51 steps. -/
theorem send_run {s : State} {a b : Byte} (h : s.accepts (.send a b)) (hu : s.undisturbed 51 = true) :
    ∃ t, runSteps 51 s = .next t ∧ t.phase = .idle ∧ s.Emits (frameTrace (joinBytes a b)) t := by
  have hu' : (sendAccepted s a b).undisturbed 50 = true := undisturbed_tail hu rfl
  rw [← sendAccepted_stepsLeft s a b] at hu'
  obtain ⟨t, hrun, hidle, hemits⟩ := busy_run_to_idle (s := sendAccepted s a b) (fun hp => nomatch hp) hu'
  rw [sendAccepted_stepsLeft] at hrun
  rw [sendAccepted_eventsLeft] at hemits
  exact ⟨t, (runSteps_succ 50 (step_send h)).trans hrun, hidle, hemits⟩

/-- Settles O42: the SEND emits its frame by `send_run`, and the receiver holds a frame played on it by
`foldl_observe_frameTrace_rx`. -/
theorem completedSendIsCommittedByTheReceiver : Obligations.CompletedSendIsCommittedByTheReceiver := by
  intro s a b h hc hu
  obtain ⟨t, hrun, _, _, hwire⟩ := send_run h hu
  have hrx : t.rx = ⟨joinBytes a b, joinBytes a b⟩ := by
    rw [← wire_rx, hwire, foldl_observe_frameTrace_rx _ hc]
  refine ⟨t, hrun, ?_⟩
  rw [hrx]
  exact ⟨rfl, rfl, joinBytes_high a b, joinBytes_low a b⟩

/-! ### Host reads (R49, R108) -/

/-- The state with another host's record. -/
def State.withReads (s : State) (rs : List HostRead) : State := { s with reads := rs }

/-- The sequencer neither reads nor writes the host's record. -/
theorem sequencerStep_withReads (s : State) (rs : List HostRead) :
    sequencerStep (s.withReads rs) = (sequencerStep s).withReads rs := by
  cases h : s.phase with
  | idle | l0 | dset | ch | l1 => simp only [sequencerStep, State.withReads, h] <;> rfl
  | cl => simp only [sequencerStep, State.withReads, h, stepCl]; split <;> rfl
  | settle => simp only [sequencerStep, State.withReads, h, stepSettle]; split <;> rfl

theorem exec_withReads {i : Instr} {s t : State} (h : exec i s = .next t) (rs : List HostRead) :
    exec i (s.withReads rs) = .next (t.withReads rs) := by
  obtain ⟨d, p, rfl, hp, rfl⟩ | ⟨d, rfl, hp, rfl⟩ | ⟨_, rfl, rfl⟩ | ⟨_, _, rfl, rfl⟩ | ⟨_, _, _, rfl, rfl⟩ :=
    exec_next_cases h
  · simp only [exec, execSeg, hp]; rfl
  · simp only [exec, execSeg, hp]; rfl
  all_goals rfl

theorem accept_withReads {w : Word} {s t : State} (h : accept w s = .next t) (rs : List HostRead) :
    accept w (s.withReads rs) = .next (t.withReads rs) := by
  obtain ⟨i, hd, he⟩ | ⟨e, hd, rfl⟩ := accept_next_cases h
  · rw [accept_of_decode hd]; exact exec_withReads he rs
  · rw [accept_of_error hd]; rfl

theorem blockStep_idle_offered {i : Inputs} {s : State} (hr : i.rst = false) (hp : s.phase = .idle)
    (hv : i.cmdValid = true) : blockStep i s = accept i.cmd s := by
  simp [blockStep, hr, hp, hv]

/-- Whatever the host's record holds, the block's step is the same and keeps the record. -/
theorem blockStep_withReads {i : Inputs} {s t : State} (h : blockStep i s = .next t) (rs : List HostRead) :
    blockStep i (s.withReads rs) = .next (t.withReads rs) := by
  cases hr : i.rst with
  | true =>
    rw [blockStep_reset _ hr] at h ⊢
    cases h
    rfl
  | false =>
    by_cases hp : s.phase = .idle
    · cases hv : i.cmdValid with
      | true =>
        rw [blockStep_idle_offered hr hp hv] at h
        rw [blockStep_idle_offered hr (s := s.withReads rs) hp hv, accept_withReads h]
      | false =>
        rw [blockStep_idle_unoffered hr hp hv] at h
        cases h
        rw [blockStep_idle_unoffered hr (s := s.withReads rs) hp hv]
    · rw [blockStep_busy hr hp] at h
      cases h
      rw [blockStep_busy hr (s := s.withReads rs) hp, sequencerStep_withReads]

/-- Settles O27: the block does not see the read flags, and what the reads gave only joins the record, which the
block's step carries along by `blockStep_withReads`. -/
theorem readsHaveNoSideEffect : Obligations.ReadsHaveNoSideEffect := by
  intro s t i es h
  have hblock : blockStep i { s with env := es, reads := s.reads ++ [] } = .next t := h
  exact blockStep_withReads hblock (s.reads ++ s.readValues i)

end Sys2Proof.Machine
end

section
/-! The encoding's statements (30_encoding.md): decoding and encoding are inverse to each other, the four formats, and
the words the decoder rejects. -/

namespace Sys2Proof

/-! ### Words as numbers (R61, R64 to R67) -/

/-- A joined field is the high part times its place value, plus the low part. -/
theorem append_toNat {m n : Nat} (x : BitVec m) (y : BitVec n) : (x ++ y).toNat = x.toNat * 2 ^ n + y.toNat := by
  rw [BitVec.toNat_append, ← Nat.shiftLeft_add_eq_or_of_lt y.isLt, Nat.shiftLeft_eq]

theorem encode_seg_toNat (d : BitVec 4) : (encode (.seg d)).toNat = 0x10000000 + d.toNat := append_toNat _ _

theorem encode_dp_toNat (p : Byte) : (encode (.dp p)).toNat = 0x20000000 + p.toNat := append_toNat _ _

theorem encode_send_toNat (a b : Byte) : (encode (.send a b)).toNat = 0x30000000 + a.toNat * 2 ^ 8 + b.toNat := by
  refine (append_toNat (0x3#4 ++ 0#12 ++ a) b).trans ?_
  rw [append_toNat]
  simp
  omega

theorem encode_render_toNat (v : Half) (sd : Bool) (dpi : Fin 4) :
    (encode (.render v sd dpi)).toNat = 0x40000000 + sd.toNat * 2 ^ 18 + dpi.val * 2 ^ 16 + v.toNat := by
  refine (append_toNat (0x4#4 ++ 0#9 ++ BitVec.ofBool sd ++ (BitVec.ofFin dpi : BitVec 2)) v).trans ?_
  rw [append_toNat, append_toNat]
  simp
  omega

/-- A field of a word, as a number. -/
theorem extract_toNat (w : Word) (k n : Nat) : (w.extractLsb' k n).toNat = w.toNat / 2 ^ k % 2 ^ n := by
  rw [BitVec.extractLsb'_toNat, Nat.shiftRight_eq_div_pow]

/-- A field holds `c` exactly when its number is that of `c`. -/
theorem extract_eq_iff {w : Word} {k n : Nat} {c : BitVec n} :
    w.extractLsb' k n = c ↔ w.toNat / 2 ^ k % 2 ^ n = c.toNat := by
  rw [← BitVec.toNat_inj, extract_toNat]

/-- A bit of a word, as a number. -/
theorem getLsbD_toNat (w : Word) (k : Nat) : (w.getLsbD k).toNat = w.toNat / 2 ^ k % 2 := by
  rw [← BitVec.testBit_toNat, Nat.toNat_testBit]

theorem opcode_eq_iff {w : Word} {c : BitVec 4} : opcode w = c ↔ w.toNat / 2 ^ 28 = c.toNat := by
  rw [opcode, extract_eq_iff, Nat.mod_eq_of_lt (by omega)]

/-! ### The decoder's branches (R62) -/

theorem decode_of_opcode_seg {w : Word} (h : opcode w = 0x1) : decode w = decodeSeg w := by simp [decode, h]

theorem decode_of_opcode_dp {w : Word} (h : opcode w = 0x2) : decode w = decodeDp w := by simp [decode, h]

theorem decode_of_opcode_send {w : Word} (h : opcode w = 0x3) : decode w = decodeSend w := by simp [decode, h]

theorem decode_of_opcode_render {w : Word} (h : opcode w = 0x4) : decode w = decodeRender w := by simp [decode, h]

theorem decode_seg {w : Word} (ho : opcode w = 0x1) (hr : w.extractLsb' 4 24 = 0) :
    decode w = .ok (.seg (w.extractLsb' 0 4)) := by rw [decode_of_opcode_seg ho, decodeSeg, if_pos hr]

theorem decode_dp {w : Word} (ho : opcode w = 0x2) (hr : w.extractLsb' 8 20 = 0) :
    decode w = .ok (.dp (w.extractLsb' 0 8)) := by rw [decode_of_opcode_dp ho, decodeDp, if_pos hr]

theorem decode_send {w : Word} (ho : opcode w = 0x3) (hr : w.extractLsb' 16 12 = 0) :
    decode w = .ok (.send (w.extractLsb' 8 8) (w.extractLsb' 0 8)) := by
  rw [decode_of_opcode_send ho, decodeSend, if_pos hr]

theorem decode_render {w : Word} (ho : opcode w = 0x4) (hr : w.extractLsb' 19 9 = 0) :
    decode w = .ok (.render (w.extractLsb' 0 16) (w.getLsbD 18) (w.extractLsb' 16 2).toFin) := by
  rw [decode_of_opcode_render ho, decodeRender, if_pos hr]

/-- An opcode of no format: 0x0, and 0x5 to 0xF (R71). -/
theorem decode_of_opcode_illegal {w : Word} (h : opcode w = 0x0 ∨ 0x5 ≤ opcode w) :
    decode w = .error (.illegalOpcode (opcode w)) := by
  have hne : opcode w ≠ 0x1 ∧ opcode w ≠ 0x2 ∧ opcode w ≠ 0x3 ∧ opcode w ≠ 0x4 := by
    generalize opcode w = op at h
    revert op
    decide
  obtain ⟨h1, h2, h3, h4⟩ := hne
  simp only [decode, h1, h2, h3, h4, if_false]

/-! ### Decoding and encoding are inverse (R64 to R68) -/

theorem decode_encode_seg (d : BitVec 4) : decode (encode (.seg d)) = .ok (.seg d) := by
  have e := encode_seg_toNat d
  have ho : opcode (encode (.seg d)) = 0x1 := opcode_eq_iff.2 (by rw [e]; bv_omega)
  have hr : (encode (.seg d)).extractLsb' 4 24 = 0 := extract_eq_iff.2 (by rw [e]; bv_omega)
  have hd : (encode (.seg d)).extractLsb' 0 4 = d := extract_eq_iff.2 (by rw [e]; omega)
  rw [decode_seg ho hr, hd]

theorem decode_encode_dp (p : Byte) : decode (encode (.dp p)) = .ok (.dp p) := by
  have e := encode_dp_toNat p
  have ho : opcode (encode (.dp p)) = 0x2 := opcode_eq_iff.2 (by rw [e]; bv_omega)
  have hr : (encode (.dp p)).extractLsb' 8 20 = 0 := extract_eq_iff.2 (by rw [e]; bv_omega)
  have hp : (encode (.dp p)).extractLsb' 0 8 = p := extract_eq_iff.2 (by rw [e]; omega)
  rw [decode_dp ho hr, hp]

theorem decode_encode_send (a b : Byte) : decode (encode (.send a b)) = .ok (.send a b) := by
  have e := encode_send_toNat a b
  have ho : opcode (encode (.send a b)) = 0x3 := opcode_eq_iff.2 (by rw [e]; bv_omega)
  have hr : (encode (.send a b)).extractLsb' 16 12 = 0 := extract_eq_iff.2 (by rw [e]; bv_omega)
  have ha : (encode (.send a b)).extractLsb' 8 8 = a := extract_eq_iff.2 (by rw [e]; omega)
  have hb : (encode (.send a b)).extractLsb' 0 8 = b := extract_eq_iff.2 (by rw [e]; omega)
  rw [decode_send ho hr, ha, hb]

theorem decode_encode_render (v : Half) (sd : Bool) (dpi : Fin 4) :
    decode (encode (.render v sd dpi)) = .ok (.render v sd dpi) := by
  have e := encode_render_toNat v sd dpi
  have hsd := sd.toNat_le
  have ho : opcode (encode (.render v sd dpi)) = 0x4 := opcode_eq_iff.2 (by rw [e]; bv_omega)
  have hr : (encode (.render v sd dpi)).extractLsb' 19 9 = 0 := extract_eq_iff.2 (by rw [e]; bv_omega)
  have hv : (encode (.render v sd dpi)).extractLsb' 0 16 = v := extract_eq_iff.2 (by rw [e]; omega)
  have hi : (encode (.render v sd dpi)).extractLsb' 16 2 = BitVec.ofFin dpi :=
    extract_eq_iff.2 (by rw [e]; bv_omega)
  have hs : (encode (.render v sd dpi)).getLsbD 18 = sd := (encode_render_getLsbD v sd dpi 18).trans (by simp)
  rw [decode_render ho hr, hv, hs, hi]

/-- Settles O1: each format's fields read back what the encoder put there. -/
theorem decodeOfEncodeIsTheCommand : Obligations.DecodeOfEncodeIsTheCommand := fun i =>
  match i with
  | .seg d => decode_encode_seg d
  | .dp p => decode_encode_dp p
  | .send a b => decode_encode_send a b
  | .render v sd dpi => decode_encode_render v sd dpi

theorem encode_seg_fields {w : Word} (ho : opcode w = 0x1) (hr : w.extractLsb' 4 24 = 0) :
    encode (.seg (w.extractLsb' 0 4)) = w := by
  have ho' : w.toNat / 2 ^ 28 = 1 := opcode_eq_iff.1 ho
  have hr' : w.toNat / 2 ^ 4 % 2 ^ 24 = 0 := extract_eq_iff.1 hr
  apply BitVec.eq_of_toNat_eq
  rw [encode_seg_toNat, extract_toNat]
  omega

theorem encode_dp_fields {w : Word} (ho : opcode w = 0x2) (hr : w.extractLsb' 8 20 = 0) :
    encode (.dp (w.extractLsb' 0 8)) = w := by
  have ho' : w.toNat / 2 ^ 28 = 2 := opcode_eq_iff.1 ho
  have hr' : w.toNat / 2 ^ 8 % 2 ^ 20 = 0 := extract_eq_iff.1 hr
  apply BitVec.eq_of_toNat_eq
  rw [encode_dp_toNat, extract_toNat]
  omega

theorem encode_send_fields {w : Word} (ho : opcode w = 0x3) (hr : w.extractLsb' 16 12 = 0) :
    encode (.send (w.extractLsb' 8 8) (w.extractLsb' 0 8)) = w := by
  have ho' : w.toNat / 2 ^ 28 = 3 := opcode_eq_iff.1 ho
  have hr' : w.toNat / 2 ^ 16 % 2 ^ 12 = 0 := extract_eq_iff.1 hr
  apply BitVec.eq_of_toNat_eq
  rw [encode_send_toNat, extract_toNat, extract_toNat]
  omega

theorem encode_render_fields {w : Word} (ho : opcode w = 0x4) (hr : w.extractLsb' 19 9 = 0) :
    encode (.render (w.extractLsb' 0 16) (w.getLsbD 18) (w.extractLsb' 16 2).toFin) = w := by
  have ho' : w.toNat / 2 ^ 28 = 4 := opcode_eq_iff.1 ho
  have hr' : w.toNat / 2 ^ 19 % 2 ^ 9 = 0 := extract_eq_iff.1 hr
  apply BitVec.eq_of_toNat_eq
  rw [encode_render_toNat, getLsbD_toNat, extract_toNat, BitVec.val_toFin, extract_toNat]
  omega

/-- Settles O2: opcode, reserved zeros and operands, put back at their places, make up the whole word. -/
theorem encodeOfDecodeIsTheWord : Obligations.EncodeOfDecodeIsTheWord := by
  intro w i h
  obtain ⟨ho, hr, rfl⟩ | ⟨ho, hr, rfl⟩ | ⟨ho, hr, rfl⟩ | ⟨ho, hr, rfl⟩ := decode_ok_cases h
  · exact encode_seg_fields ho hr
  · exact encode_dp_fields ho hr
  · exact encode_send_fields ho hr
  · exact encode_render_fields ho hr

/-! ### The four formats (R64 to R67, R70, R71) -/

/-- A command's word belongs to the command's row. -/
theorem row_covers_encode (i : Instr) : i.row.covers (encode i) = true := by
  cases i with
  | seg d => exact Laws.WordShape.seg d
  | dp p => exact Laws.WordShape.dp p
  | send a b => exact Laws.WordShape.send a b
  | render v sd dpi => exact Laws.WordShape.render v sd dpi

theorem row_covers_of_decode {w : Word} {i : Instr} (h : decode w = .ok i) : i.row.covers w = true :=
  encodeOfDecodeIsTheWord w i h ▸ row_covers_encode i

/-- Where a mask is all ones, a word that matches holds the pattern's bits. -/
theorem extract_of_and_eq {w m p : Word} {k n : Nat} (h : w &&& m = p) (hm : m.extractLsb' k n = BitVec.allOnes n) :
    w.extractLsb' k n = p.extractLsb' k n := by
  rw [← h, BitVec.extractLsb'_and, hm, BitVec.and_allOnes]

/-- A word that some row covers decodes. -/
theorem decode_ok_of_masks {w : Word}
    (h : w &&& 0xFFFFFFF0 = 0x10000000 ∨ w &&& 0xFFFFFF00 = 0x20000000 ∨
      w &&& 0xFFFF0000 = 0x30000000 ∨ w &&& 0xFFF80000 = 0x40000000) : ∃ i, decode w = .ok i := by
  obtain h | h | h | h := h
  · exact ⟨_, decode_seg (extract_of_and_eq h (by decide)) (extract_of_and_eq h (by decide))⟩
  · exact ⟨_, decode_dp (extract_of_and_eq h (by decide)) (extract_of_and_eq h (by decide))⟩
  · exact ⟨_, decode_send (extract_of_and_eq h (by decide)) (extract_of_and_eq h (by decide))⟩
  · exact ⟨_, decode_render (extract_of_and_eq h (by decide)) (extract_of_and_eq h (by decide))⟩

theorem masks_of_decode_ok {w : Word} {i : Instr} (h : decode w = .ok i) :
    w &&& 0xFFFFFFF0 = 0x10000000 ∨ w &&& 0xFFFFFF00 = 0x20000000 ∨
      w &&& 0xFFFF0000 = 0x30000000 ∨ w &&& 0xFFF80000 = 0x40000000 := by
  have hc : w &&& i.row.mask = i.row.pattern := by simpa [OpcodeRow.covers] using row_covers_of_decode h
  cases i with
  | seg d => exact .inl hc
  | dp p => exact .inr (.inl hc)
  | send a b => exact .inr (.inr (.inl hc))
  | render v sd dpi => exact .inr (.inr (.inr hc))

/-- Every row's mask holds the opcode, so a word has the opcode of each row that covers it. -/
theorem opcode_of_covers {r : OpcodeRow} {w : Word} (hr : r ∈ opcodeRows) (h : r.covers w = true) :
    opcode w = opcode r.pattern := by
  have hmask : ∀ r ∈ opcodeRows, r.mask.extractLsb' 28 4 = BitVec.allOnes 4 := by decide
  exact extract_of_and_eq (by simpa [OpcodeRow.covers] using h) (hmask r hr)

theorem row_eq_of_opcode_eq :
    ∀ r ∈ opcodeRows, ∀ r' ∈ opcodeRows, opcode r.pattern = opcode r'.pattern → r = r' := by
  decide

/-- Settles O3: the masks say what `decode` tests, and rows with one opcode are one row. -/
theorem wordsAreOneFormatOrIllegal : Obligations.WordsAreOneFormatOrIllegal := fun _ =>
  ⟨⟨fun ⟨_, h⟩ => masks_of_decode_ok h, decode_ok_of_masks⟩,
    fun r hr r' hr' h h' =>
      row_eq_of_opcode_eq r hr r' hr' ((opcode_of_covers hr h).symm.trans (opcode_of_covers hr' h')),
    fun _ h => row_covers_of_decode h⟩

/-! ### The words the decoder rejects (R70, R71) -/

/-- A mask that lies within a field of zeros gives 0. -/
theorem and_eq_zero_of_extract {w m : Word} {k n : Nat} (h : w.extractLsb' k n = 0)
    (hm : ∀ j < 32, m.getLsbD j = true → k ≤ j ∧ j < k + n) : w &&& m = 0 := by
  apply BitVec.eq_of_getLsbD_eq
  intro j hj
  cases hmj : m.getLsbD j with
  | false => simp [hmj]
  | true =>
    obtain ⟨hk, hn⟩ := hm j hj hmj
    obtain ⟨l, rfl⟩ := Nat.exists_eq_add_of_le hk
    have hw := getLsbD_of_extract h (show l < n by omega)
    simp [hw]

/-- Settles O4: a set reserved bit under the mask makes the reserved field nonzero. -/
theorem illegalWordsAreRejectedByName : Obligations.IllegalWordsAreRejectedByName := by
  intro w
  refine ⟨decode_of_opcode_illegal, fun ho hm => ?_, fun ho hm => ?_, fun ho hm => ?_, fun ho hm => ?_⟩
  · rw [decode_of_opcode_seg ho, decodeSeg, if_neg fun h => hm (and_eq_zero_of_extract h (by decide))]
  · rw [decode_of_opcode_dp ho, decodeDp, if_neg fun h => hm (and_eq_zero_of_extract h (by decide))]
  · rw [decode_of_opcode_send ho, decodeSend, if_neg fun h => hm (and_eq_zero_of_extract h (by decide))]
  · rw [decode_of_opcode_render ho, decodeRender, if_neg fun h => hm (and_eq_zero_of_extract h (by decide))]

end Sys2Proof
end

section
/-! The encoding's step statements (30_encoding.md R62): a step in IDLE performs the word it accepts, or nothing. -/

namespace Sys2Proof.Machine

/-- Settles O18: an accepting step is the acceptance of its word, which performs the command it decodes to. -/
theorem stepRunsTheDecodedCommand : Obligations.StepRunsTheDecodedCommand := by
  intro s i hr hp hv hd
  obtain ⟨hacc, _⟩ := State.accepts_of_decode hr hp hv hd
  exact (step_accepting hacc).trans (accept_of_decode hd s.takeInputs)

theorem ofNat_toNat_self {n : Nat} (x : BitVec n) : BitVec.ofNat n x.toNat = x := by
  rw [BitVec.ofNat_toNat, BitVec.setWidth_eq]

/-- The table's 32 bits of a word are the word. -/
theorem tableWord_toNat (w : Word) : tableWord 32 w.toNat = w := by
  rw [tableWord, Nat.mod_eq_of_lt w.isLt, ofNat_toNat_self]

/-- The step of an offer uses the offer up and records no read. -/
theorem offerNext_takeInputs (s : State) (w : Word) : (s.offerNext w).takeInputs = s.setPhase .idle := by
  have hnone : (s.offerNext w).readValues (s.offerNext w).inputs = [] := State.readValues_none _ rfl rfl
  rw [State.takeInputs, hnone, List.append_nil]
  rfl

/-- Settles O19: the placed word is the offer of the coming step, in IDLE. -/
theorem offeredTableWordRunsNext : Obligations.OfferedTableWordRunsNext := by
  intro s w i hd
  calc step (s.withFetchWord 32 w.toNat)
      = step (s.offerNext w) := by rw [State.withFetchWord, tableWord_toNat]
    _ = exec i (s.offerNext w).takeInputs := stepRunsTheDecodedCommand (s.offerNext w) i rfl rfl rfl hd
    _ = exec i { s with phase := .idle } := by rw [offerNext_takeInputs]; rfl

/-- Settles O25: with nothing offered in IDLE only the host's side of the step is left. -/
theorem idleWithNothingOfferedKeepsTheState : Obligations.IdleWithNothingOfferedKeepsTheState :=
  fun _ hr hp hv => blockStep_idle_unoffered hr hp hv

end Sys2Proof.Machine
end

section
/-! The assembler's statements (30_encoding.md R74, R75): the word of each source command, the text of a command read
back, and numbers, comments and lines. -/

namespace Sys2Proof.Machine

/-! ### The word of a source command (R74) -/

/-- A field joined by `|||` above an operand that fits below it is added to it. -/
theorem or_eq_add {n b : Nat} (a : Nat) (h : b < 2 ^ n) : 2 ^ n * a ||| b = 2 ^ n * a + b :=
  (Nat.two_pow_add_eq_or_of_lt h a).symm

theorem Source.value_seg {d : Nat} (h : d ≤ 15) : (Source.seg d).value = 0x10000000 + d :=
  or_eq_add (n := 4) 0x1000000 (by omega)

theorem Source.value_dp {p : Nat} (h : p ≤ 255) : (Source.dp p).value = 0x20000000 + p :=
  or_eq_add (n := 8) 0x200000 (by omega)

theorem Source.value_send {a b : Nat} (ha : a ≤ 255) (hb : b ≤ 255) :
    (Source.send a b).value = 0x30000000 + a * 2 ^ 8 + b := by
  have hhigh : 0x30000000 ||| a * 2 ^ 8 = 0x30000000 + a * 2 ^ 8 := or_eq_add (n := 16) 0x3000 (by omega)
  have hlow : 2 ^ 8 * (0x300000 + a) ||| b = 2 ^ 8 * (0x300000 + a) + b := or_eq_add _ (by omega)
  rw [Source.value, Nat.shiftLeft_eq, hhigh, show 0x30000000 + a * 2 ^ 8 = 2 ^ 8 * (0x300000 + a) by omega, hlow]

theorem PointSpelling.bits_dp {i : Nat} (h : i ≤ 3) : (PointSpelling.dp i).bits = 2 ^ 16 * (4 + i) := by
  rw [PointSpelling.bits, Nat.shiftLeft_eq i]
  exact (or_eq_add (n := 18) 1 (by omega)).trans (by omega)

theorem Source.value_render {v m : Nat} {point : PointSpelling} (hv : v ≤ 65535) (hm : m < 8)
    (hp : point.bits = 2 ^ 16 * m) : (Source.render v point).value = 0x40000000 + 2 ^ 16 * m + v := by
  have hhigh : 0x40000000 ||| 2 ^ 16 * m = 0x40000000 + 2 ^ 16 * m := or_eq_add (n := 19) 0x800 (by omega)
  have hlow : 2 ^ 16 * (0x4000 + m) ||| v = 2 ^ 16 * (0x4000 + m) + v := or_eq_add _ (by omega)
  rw [Source.value, hp, hhigh, show 0x40000000 + 2 ^ 16 * m = 2 ^ 16 * (0x4000 + m) by omega, hlow]

/-- A source command whose value, when in range, is the number of an encoded command assembles to that command's word,
and to none out of range. -/
theorem Source.assemble_eq_ite {c : Source} {i : Instr} {P : Prop} [Decidable P] (hrange : c.inRange = true ↔ P)
    (hvalue : P → c.value = (encode i).toNat) : c.assemble = if P then some (encode i) else none := by
  rw [Source.assemble]
  by_cases h : P
  · rw [if_pos (hrange.2 h), if_pos h, hvalue h, ofNat_toNat_self]
  · rw [if_neg (mt hrange.1 h), if_neg h]

theorem Source.assemble_seg (d : Nat) :
    (Source.seg d).assemble = if d ≤ 15 then some (encode (.seg (BitVec.ofNat 4 d))) else none := by
  refine Source.assemble_eq_ite (by simp [Source.inRange]) fun h => ?_
  rw [Source.value_seg h, encode_seg_toNat, BitVec.toNat_ofNat, Nat.mod_eq_of_lt (by omega)]

theorem Source.assemble_dp (p : Nat) :
    (Source.dp p).assemble = if p ≤ 255 then some (encode (.dp (BitVec.ofNat 8 p))) else none := by
  refine Source.assemble_eq_ite (by simp [Source.inRange]) fun h => ?_
  rw [Source.value_dp h, encode_dp_toNat, BitVec.toNat_ofNat, Nat.mod_eq_of_lt (by omega)]

theorem Source.assemble_send (a b : Nat) :
    (Source.send a b).assemble =
      if a ≤ 255 ∧ b ≤ 255 then some (encode (.send (BitVec.ofNat 8 a) (BitVec.ofNat 8 b))) else none := by
  refine Source.assemble_eq_ite (by simp [Source.inRange]) fun ⟨ha, hb⟩ => ?_
  rw [Source.value_send ha hb, encode_send_toNat, BitVec.toNat_ofNat, BitVec.toNat_ofNat,
    Nat.mod_eq_of_lt (by omega), Nat.mod_eq_of_lt (by omega)]

theorem Source.assemble_render_dp (v i : Nat) :
    (Source.render v (.dp i)).assemble =
      if v ≤ 65535 ∧ i ≤ 3 then some (encode (.render (BitVec.ofNat 16 v) true (Fin.ofNat 4 i))) else none := by
  refine Source.assemble_eq_ite (by simp [Source.inRange, PointSpelling.inRange]) fun ⟨hv, hi⟩ => ?_
  rw [Source.value_render hv (by omega) (PointSpelling.bits_dp hi), encode_render_toNat, BitVec.toNat_ofNat,
    Nat.mod_eq_of_lt (by omega), Fin.val_ofNat, Nat.mod_eq_of_lt (by omega), Bool.toNat_true]
  omega

/-- A spelling with no position adds no bit and needs no range of its own (R75). -/
theorem PointSpelling.noPosition {point : PointSpelling} (h : point ∈ [PointSpelling.omitted, .dpMinusOne, .nodp]) :
    point.inRange = true ∧ point.bits = 2 ^ 16 * 0 := by
  revert point
  decide

theorem Source.assemble_render_noPosition (v : Nat) {point : PointSpelling}
    (h : point ∈ [PointSpelling.omitted, .dpMinusOne, .nodp]) :
    (Source.render v point).assemble =
      if v ≤ 65535 then some (encode (.render (BitVec.ofNat 16 v) false 0)) else none := by
  obtain ⟨hrange, hbits⟩ := PointSpelling.noPosition h
  refine Source.assemble_eq_ite (by simp [Source.inRange, hrange]) fun hv => ?_
  rw [Source.value_render hv (by omega) hbits, encode_render_toNat, BitVec.toNat_ofNat, Nat.mod_eq_of_lt (by omega)]
  rfl

theorem Source.assemble_word (w : Nat) :
    (Source.word w).assemble = if w ≤ 0xFFFFFFFF then some (BitVec.ofNat 32 w) else none := by
  simp only [Source.assemble, Source.inRange, Source.value, decide_eq_true_eq]

/-- Settles O7: in range, the value of R74's table is the number of the encoded command. -/
theorem assemblerGivesTheWordOfInRangeOperands : Obligations.AssemblerGivesTheWordOfInRangeOperands :=
  ⟨Source.assemble_seg, Source.assemble_dp, Source.assemble_send, Source.assemble_render_dp,
    fun v _ h => Source.assemble_render_noPosition v h, Source.assemble_word⟩

end Sys2Proof.Machine
end

section
/-! The assembler's text (30_encoding.md R74, R75): printed commands read back, and numbers, comments and lines. -/

namespace Sys2Proof.Machine

/-! ### Numbers (R74) -/

/-- Digits with no `0x` before them are decimal. -/
theorem parseNumber_decimal {cs : List Char} (hne : cs ≠ []) (hx : 'x' ∉ cs) :
    parseNumber cs = digitsValue 10 0 cs := by
  unfold parseNumber
  split
  case h_1 => exact absurd rfl hne
  case h_2 => simp at hx
  case h_3 => simp at hx
  case h_4 => rfl

/-- Digits after `0x` are hexadecimal. -/
theorem parseNumber_hex {cs : List Char} (hne : cs ≠ []) : parseNumber ('0' :: 'x' :: cs) = digitsValue 16 0 cs := by
  cases cs with
  | nil => exact absurd rfl hne
  | cons c cs => rfl

theorem parseNumber_printNumber (n : Nat) : parseNumber (printNumber n) = some n := by
  have hx : 'x' ∉ printNumber n := fun h => by simpa using printNumber_plain h
  rw [parseNumber_decimal (printNumber_ne_nil n) hx]
  exact digitsValue_toDigits (by decide) (by decide) n

/-- Whatever the case of its letters, a number's hexadecimal digits after `0x` read as that number. -/
theorem parseNumber_hex_anyCase {n : Nat} {cs : List Char} (h : cs.map Char.toLower = Nat.toDigits 16 n) :
    parseNumber ('0' :: 'x' :: cs) = some n := by
  have hne : cs ≠ [] := by
    rintro rfl
    exact Nat.toDigits_ne_nil h.symm
  rw [parseNumber_hex hne, ← digitsValue_map_toLower, h, digitsValue_toDigits (by decide) (by decide)]

theorem toLower_toUpper (c : Char) : c.toUpper.toLower = c.toLower := by
  unfold Char.toUpper
  split
  · rename_i h
    have hlow : 97 ≤ c.toNat := h.1
    have hhigh : c.toNat ≤ 122 := h.2
    have hc : c = Char.ofNat c.toNat := (Char.ofNat_toNat c).symm
    generalize c.toNat = n at hlow hhigh hc
    subst hc
    interval_cases n <;> rfl
  · rfl

/-- A text reads alike with its letters put in upper case. -/
theorem digitsValue_map_toUpper (b acc : Nat) (cs : List Char) :
    digitsValue b acc (cs.map Char.toUpper) = digitsValue b acc cs := by
  have hcase : Char.toLower ∘ Char.toUpper = Char.toLower := funext toLower_toUpper
  rw [← digitsValue_map_toLower, List.map_map, hcase, digitsValue_map_toLower]

theorem parseNumber_hex_toDigits (n : Nat) : parseNumber ('0' :: 'x' :: Nat.toDigits 16 n) = some n := by
  rw [parseNumber_hex Nat.toDigits_ne_nil, digitsValue_toDigits (by decide) (by decide)]

theorem parseNumber_hex_toUpper (n : Nat) :
    parseNumber ('0' :: 'x' :: (Nat.toDigits 16 n).map Char.toUpper) = some n := by
  rw [parseNumber_hex (by simp), digitsValue_map_toUpper,
    digitsValue_toDigits (by decide) (by decide)]

/-! ### Comments and lines (R74) -/

theorem takeWhile_comment (line comment : List Char) :
    (line ++ ';' :: comment).takeWhile (· ≠ ';') = line.takeWhile (· ≠ ';') := by
  induction line with
  | nil => rfl
  | cons c line ih => simp only [List.cons_append, List.takeWhile_cons, ih]

/-- What `parseLine` reads of a line is what stands before the first `;`. -/
theorem parseLine_comment (line comment : List Char) : parseLine (line ++ ';' :: comment) = parseLine line := by
  simp only [parseLine, takeWhile_comment]

/-- The words of one line, or none when it is refused. -/
def assembleLine (line : List Char) : Option (List Word) :=
  (parseLine line).bind fun c? =>
    match c? with
    | none => some []
    | some c => c.assemble.map fun w => [w]

theorem assembleText_eq_mapM (text : List Char) :
    assembleText text = ((splitAtChar '\n' text).mapM assembleLine).map List.flatten := rfl

/-- A text with no line end is one line. -/
theorem assembleText_line {line : List Char} (h : '\n' ∉ line) : assembleText line = assembleLine line := by
  rw [assembleText_eq_mapM, splitAtChar_of_not_mem h]
  cases hl : assembleLine line <;> simp [hl]

/-- A whole line's words stand before those of the rest. -/
theorem assembleText_line_append {line : List Char} (h : '\n' ∉ line) (rest : List Char) :
    assembleText (line ++ '\n' :: rest) =
      (assembleText line).bind fun ws => (assembleText rest).map fun ws' => ws ++ ws' := by
  rw [assembleText_line h, assembleText_eq_mapM rest, assembleText_eq_mapM, splitAtChar_append h, List.mapM_cons]
  cases assembleLine line <;> cases (splitAtChar '\n' rest).mapM assembleLine <;> rfl

/-- Settles O52: numbers by `digitsValue_toDigits` in either base and case, comments by what a line reads, lines by
`splitAtChar_append`. -/
theorem assemblerReadsNumbersCommentsAndLines : Obligations.AssemblerReadsNumbersCommentsAndLines :=
  ⟨fun n => ⟨parseNumber_printNumber n, parseNumber_hex_toDigits n, parseNumber_hex_toUpper n⟩,
    fun _ _ h => parseNumber_hex_anyCase h, parseLine_comment, fun _ rest h => assembleText_line_append h rest⟩

/-! ### Printed commands (R74, R75) -/

/-- A text with no blank, comma, comment mark or line end: a mnemonic or an operand. -/
def Plain (cs : List Char) : Prop :=
  cs ≠ [] ∧ ∀ c ∈ cs, isBlank c = false ∧ c ≠ ',' ∧ c ≠ ';' ∧ c ≠ '\n'

theorem plain_printNumber (n : Nat) : Plain (printNumber n) :=
  ⟨printNumber_ne_nil n, fun _ h =>
    have ⟨hblank, hcomma, hmark, hend, _⟩ := printNumber_plain h
    ⟨hblank, hcomma, hmark, hend⟩⟩

/-- Operands as they are printed: a comma and a blank between two. -/
def operandText : List (List Char) → List Char
  | [] => []
  | [o] => o
  | o :: os => o ++ ',' :: ' ' :: operandText os

theorem operandText_cons {o : List Char} {os : List (List Char)} (h : os ≠ []) :
    operandText (o :: os) = o ++ ',' :: ' ' :: operandText os := by
  cases os with
  | nil => exact absurd rfl h
  | cons => rfl

/-- Operands cut at the commas and trimmed are the operands. -/
theorem split_operandText {os : List (List Char)} (hne : os ≠ []) (hos : ∀ o ∈ os, Plain o) :
    (splitAtChar ',' (' ' :: operandText os)).map trimBlanks = os := by
  induction os with
  | nil => exact absurd rfl hne
  | cons o os ih =>
    obtain ⟨ho, hos⟩ := List.forall_mem_cons.1 hos
    have htrim : trimBlanks (' ' :: o) = o := by
      rw [trimBlanks_blank_cons rfl, trimBlanks_of_plain fun c hc => (ho.2 c hc).1]
    have hcomma : ',' ∉ ' ' :: o := by
      simpa using fun h => (ho.2 ',' h).2.1 rfl
    cases os with
    | nil => rw [operandText, splitAtChar_of_not_mem hcomma, List.map_singleton, htrim]
    | cons o' os =>
      rw [operandText_cons (by simp), ← List.cons_append, splitAtChar_append hcomma, List.map_cons, htrim,
        ih (by simp) hos]

/-- What stands in printed operands: the separators and the operands' own characters. -/
theorem mem_operandText {os : List (List Char)} {c : Char} (h : c ∈ operandText os) :
    c = ',' ∨ c = ' ' ∨ ∃ o ∈ os, c ∈ o := by
  induction os with
  | nil => simp [operandText] at h
  | cons o os ih =>
    cases os with
    | nil => exact .inr (.inr ⟨o, by simp, h⟩)
    | cons o' os =>
      rw [operandText_cons (by simp), List.mem_append, List.mem_cons, List.mem_cons] at h
      obtain h | h | h | h := h
      · exact .inr (.inr ⟨o, by simp, h⟩)
      · exact .inl h
      · exact .inr (.inl h)
      · exact (ih h).imp_right (Or.imp_right fun ⟨a, ha, hc⟩ => ⟨a, by simp [ha], hc⟩)

/-- Printed operands end in a character that is no blank. -/
theorem operandText_getLast? {os : List (List Char)} (hne : os ≠ []) (hos : ∀ o ∈ os, Plain o) :
    ∃ c, (operandText os).getLast? = some c ∧ isBlank c = false := by
  induction os with
  | nil => exact absurd rfl hne
  | cons o os ih =>
    obtain ⟨⟨ho, hplain⟩, hos⟩ := List.forall_mem_cons.1 hos
    cases os with
    | nil => exact ⟨o.getLast ho, List.getLast?_eq_some_getLast ho, (hplain _ (List.getLast_mem ho)).1⟩
    | cons o' os =>
      obtain ⟨c, hc, hblank⟩ := ih (by simp) hos
      exact ⟨c, by simp [operandText_cons, List.getLast?_cons, hc], hblank⟩

theorem dropWhile_isBlank_eq_self {cs : List Char} (h : ∀ c ∈ cs.head?, isBlank c = false) :
    cs.dropWhile isBlank = cs := by
  cases cs with
  | nil => rfl
  | cons c cs => exact List.dropWhile_cons_of_neg (by simpa using h)

/-- Text with no blank at either end is trimmed to itself. -/
theorem trimBlanks_of_ends {cs : List Char} (hfirst : ∀ c ∈ cs.head?, isBlank c = false)
    (hlast : ∀ c ∈ cs.getLast?, isBlank c = false) : trimBlanks cs = cs := by
  rw [trimBlanks, dropWhile_isBlank_eq_self hfirst, dropWhile_isBlank_eq_self (by simpa using hlast),
    List.reverse_reverse]

/-- A command's line as it is printed: its mnemonic, a blank, its operands. -/
def lineText (mnemonic : List Char) (operands : List (List Char)) : List Char :=
  mnemonic ++ ' ' :: operandText operands

section
variable {m : List Char} {os : List (List Char)} (hm : Plain m) (hos : ∀ o ∈ os, Plain o)
include hm hos

/-- A printed line holds no comment mark and no line end. -/
theorem not_mem_lineText {c : Char} (h : c = ';' ∨ c = '\n') : c ∉ lineText m os := by
  have hplain {o : List Char} (ho : Plain o) (hc : c ∈ o) : False := by
    obtain ⟨_, _, hmark, hend⟩ := ho.2 c hc
    exact h.elim hmark hend
  intro hc
  obtain hc | hc := List.mem_append.1 hc
  · exact hplain hm hc
  · obtain hc | hc := List.mem_cons.1 hc
    · obtain rfl | rfl := h <;> simp at hc
    · obtain hc | hc | ⟨o, ho, hc⟩ := mem_operandText hc
      · obtain rfl | rfl := h <;> simp at hc
      · obtain rfl | rfl := h <;> simp at hc
      · exact hplain (hos o ho) hc

theorem trimBlanks_lineText (hne : os ≠ []) : trimBlanks (lineText m os) = lineText m os := by
  obtain ⟨hmne, hmplain⟩ := hm
  apply trimBlanks_of_ends
  · obtain ⟨a, m, rfl⟩ := List.exists_cons_of_ne_nil hmne
    simpa [lineText] using (hmplain a (by simp)).1
  · obtain ⟨c, hc, hblank⟩ := operandText_getLast? hne hos
    simp [lineText, List.getLast?_cons, hc, hblank]

/-- A printed line is read as its mnemonic and its operands. -/
theorem parseLine_lineText (hne : os ≠ []) : parseLine (lineText m os) = (parseCommand m os).map some := by
  have hcomment : (lineText m os).takeWhile (· ≠ ';') = lineText m os :=
    List.takeWhile_eq_self_iff.2 fun c hc => by
      have : c ≠ ';' := fun h => not_mem_lineText hm hos (.inl h) hc
      simpa using this
  have hbody : lineText m os ≠ [] := by simp [lineText]
  have hmblank : ∀ c ∈ m, (!isBlank c) = true := fun c hc => by simp [(hm.2 c hc).1]
  have hmnemonic : (lineText m os).takeWhile (fun c => !isBlank c) = m := by
    rw [lineText, List.takeWhile_append_of_pos hmblank, List.takeWhile_cons_of_neg (by decide), List.append_nil]
  have hrest : (lineText m os).dropWhile (fun c => !isBlank c) = ' ' :: operandText os := by
    rw [lineText, List.dropWhile_append_of_pos hmblank, List.dropWhile_cons_of_neg (by decide)]
  simp only [parseLine, hcomment, trimBlanks_lineText hm hos hne, hbody, if_false, hmnemonic, hrest,
    split_operandText hne hos]

end

/-- How a spelling of the decimal point is printed, if it is. -/
def PointSpelling.operands : PointSpelling → List (List Char)
  | .omitted => []
  | .dp i => ['d' :: 'p' :: '=' :: printNumber i]
  | .dpMinusOne => [['d', 'p', '=', '-', '1']]
  | .nodp => [['n', 'o', 'd', 'p']]

/-- The first word of a printed command. -/
def Source.mnemonic : Source → List Char
  | .seg _ => ['S', 'E', 'G']
  | .dp _ => ['D', 'P']
  | .send _ _ => ['S', 'E', 'N', 'D']
  | .render _ _ => ['R', 'E', 'N', 'D', 'E', 'R']
  | .word _ => ['.', 'w', 'o', 'r', 'd']

/-- The operands of a printed command. -/
def Source.operands : Source → List (List Char)
  | .seg d => [printNumber d]
  | .dp p => [printNumber p]
  | .send a b => [printNumber a, printNumber b]
  | .render v point => printNumber v :: point.operands
  | .word w => [printNumber w]

theorem Source.print_eq_lineText (c : Source) : c.print = lineText c.mnemonic c.operands := by
  cases c with
  | seg d => rfl
  | dp p => rfl
  | send a b => simp [Source.print, lineText, Source.mnemonic, Source.operands, operandText]
  | render v point =>
    cases point <;> simp [Source.print, lineText, Source.mnemonic, Source.operands, PointSpelling.operands, operandText]
  | word w => rfl

theorem Source.plain_mnemonic (c : Source) : Plain c.mnemonic := by
  cases c <;> exact ⟨by simp [Source.mnemonic], by simp [Source.mnemonic, isBlank]⟩

theorem PointSpelling.plain_operands (point : PointSpelling) : ∀ o ∈ point.operands, Plain o := by
  cases point with
  | omitted => simp [PointSpelling.operands]
  | dp i => simpa [PointSpelling.operands, Plain, isBlank] using (plain_printNumber i).2
  | dpMinusOne => simp [PointSpelling.operands, Plain, isBlank]
  | nodp => simp [PointSpelling.operands, Plain, isBlank]

theorem Source.plain_operands (c : Source) : ∀ o ∈ c.operands, Plain o := by
  cases c with
  | render v point => exact List.forall_mem_cons.2 ⟨plain_printNumber v, point.plain_operands⟩
  | seg | dp | send | word => simp [Source.operands, plain_printNumber]

theorem Source.operands_ne_nil (c : Source) : c.operands ≠ [] := by
  cases c <;> simp [Source.operands]

/-- A printed position is read as one: it is not the text of `dp=-1`, since no printed number holds a minus sign. -/
theorem parsePoint_dp (i : Nat) : parsePoint ('d' :: 'p' :: '=' :: printNumber i) = some (.dp i) := by
  have hminus : printNumber i ≠ ['-', '1'] := fun h => by
    obtain ⟨_, _, _, _, _, hne⟩ := printNumber_plain (n := i) (c := '-') (by simp [h])
    exact hne rfl
  generalize hcs : 'd' :: 'p' :: '=' :: printNumber i = cs
  unfold parsePoint
  split
  case h_1 => simp at hcs
  case h_2 => exact absurd (by simpa using hcs) hminus
  case h_3 ds _ =>
    obtain rfl : printNumber i = ds := by simpa using hcs
    rw [parseNumber_printNumber, Option.map_some]
  case h_4 h => exact absurd hcs.symm (h _)

/-- Reading a printed command's mnemonic and operands gives the command back. -/
theorem parseCommand_source (c : Source) : parseCommand c.mnemonic c.operands = some c := by
  cases c with
  | seg | dp | send | word => simp [Source.mnemonic, Source.operands, parseCommand, parseNumber_printNumber]
  | render v point =>
    cases point with
    | dp i =>
      simp [Source.mnemonic, Source.operands, PointSpelling.operands, parseCommand, parseNumber_printNumber,
        parsePoint_dp]
    | omitted | dpMinusOne | nodp =>
      simp [Source.mnemonic, Source.operands, PointSpelling.operands, parseCommand, parseNumber_printNumber, parsePoint]

theorem parseLine_print (c : Source) : parseLine c.print = some (some c) := by
  rw [c.print_eq_lineText, parseLine_lineText c.plain_mnemonic c.plain_operands c.operands_ne_nil,
    parseCommand_source, Option.map_some]

/-- Settles O51: the printed text is one line, which is read back as its command. -/
theorem printedSourceAssemblesToItsWord : Obligations.PrintedSourceAssemblesToItsWord := by
  intro c
  have hline : '\n' ∉ c.print :=
    c.print_eq_lineText ▸ not_mem_lineText c.plain_mnemonic c.plain_operands (.inr rfl)
  rw [assembleText_line hline, assembleLine, parseLine_print]
  rfl

/-! ### Disassembled words (R75) -/

section
variable {w : Word}

theorem disassemble_seg {d : BitVec 4} (h : decode w = .ok (.seg d)) : disassemble w = .seg d.toNat := by
  simp [disassemble, h]

theorem disassemble_dp {p : Byte} (h : decode w = .ok (.dp p)) : disassemble w = .dp p.toNat := by
  simp [disassemble, h]

theorem disassemble_send {a b : Byte} (h : decode w = .ok (.send a b)) : disassemble w = .send a.toNat b.toNat := by
  simp [disassemble, h]

theorem disassemble_render_dp {v : Half} {dpi : Fin 4} (h : decode w = .ok (.render v true dpi)) :
    disassemble w = .render v.toNat (.dp dpi.val) := by simp [disassemble, disassembleRender, h]

theorem disassemble_render_omitted {v : Half} (h : decode w = .ok (.render v false 0)) :
    disassemble w = .render v.toNat .omitted := by simp [disassemble, disassembleRender, h]

/-- No spelling gives a position without its point, so such a word is printed raw. -/
theorem disassemble_render_raw {v : Half} {dpi : Fin 4} (h : decode w = .ok (.render v false dpi)) (hdpi : dpi ≠ 0) :
    disassemble w = .word w.toNat := by simp [disassemble, disassembleRender, h, hdpi]

theorem disassemble_illegal {e : DecodeError} (h : decode w = .error e) : disassemble w = .word w.toNat := by
  simp [disassemble, h]

end

/-- The raw command of a word assembles to it. -/
theorem assemble_raw (w : Word) : (Source.word w.toNat).assemble = some w := by
  rw [Source.assemble_word, if_pos (by omega), ofNat_toNat_self]

/-- The source command a word is printed as assembles to the word. -/
theorem assemble_disassemble (w : Word) : (disassemble w).assemble = some w := by
  cases h : decode w with
  | error e => rw [disassemble_illegal h, assemble_raw]
  | ok i =>
    have hw : encode i = w := encodeOfDecodeIsTheWord w i h
    cases i with
    | seg d => rw [disassemble_seg h, Source.assemble_seg, if_pos (by omega), ofNat_toNat_self, hw]
    | dp p => rw [disassemble_dp h, Source.assemble_dp, if_pos (by omega), ofNat_toNat_self, hw]
    | send a b =>
      rw [disassemble_send h, Source.assemble_send, if_pos (by omega), ofNat_toNat_self, ofNat_toNat_self, hw]
    | render v sd dpi =>
      cases sd with
      | true =>
        rw [disassemble_render_dp h, Source.assemble_render_dp, if_pos (by omega), ofNat_toNat_self,
          Fin.ofNat_val_eq_self, hw]
      | false =>
        by_cases hdpi : dpi = 0
        · subst hdpi
          rw [disassemble_render_omitted h, Source.assemble_render_noPosition _ (by simp), if_pos (by omega),
            ofNat_toNat_self, hw]
        · rw [disassemble_render_raw h hdpi, assemble_raw]

/-- Settles O6: the printed text assembles to the word of its source command, which is the word itself. -/
theorem assemblyOfDisassemblyIsTheWord : Obligations.AssemblyOfDisassemblyIsTheWord := fun w =>
  ⟨by rw [printedSourceAssemblesToItsWord, assemble_disassemble, Option.map_some], assemble_disassemble w,
    fun _ h => disassemble_seg h, fun _ h => disassemble_dp h, fun _ _ h => disassemble_send h,
    fun _ _ h => disassemble_render_dp h, fun _ h => disassemble_render_omitted h,
    fun _ _ h hdpi => disassemble_render_raw h hdpi, fun _ h => disassemble_illegal h⟩

end Sys2Proof.Machine
end

section
/-! The digit encoder's statements (40_encoder.md): what SEG and DP do to the state, and the decimal point's bit. -/

namespace Sys2Proof.Machine

/-! ### SEG (R76) -/

theorem exec_seg_of_some {d : BitVec 4} {p : Byte} (h : patternFor d = some p) (s : State) :
    exec (.seg d) s = .next (s.writeResult p) := by simp only [exec, execSeg, h]

theorem exec_seg_of_none {d : BitVec 4} (h : patternFor d = none) (s : State) :
    exec (.seg d) s = .next (s.raise (.invalidDigit d)) := by simp only [exec, execSeg, h]

/-- `ROM_PAT` written out (R25). -/
theorem romPat_toList : romPat.toList = [0xC0, 0xF9, 0xA4, 0xB0, 0x99, 0x92, 0x82, 0xF8, 0x80, 0x90] := rfl

/-- A digit's pattern is its entry of the table, read as a list. -/
theorem patternFor_eq_getD {d : BitVec 4} (h : d ≤ 9) : patternFor d = some (romPat.toList.getD d.toNat 0) := by
  have hlen : d.toNat < romPat.toList.length := by rw [Vector.length_toList]; bv_omega
  rw [patternFor_of_le h, List.getD_eq_getElem _ _ hlen, Vector.getElem_toList]

/-- Settles O8: the digit has a pattern, which SEG writes into RESULT. -/
theorem segWritesThePatternOfADigit : Obligations.SegWritesThePatternOfADigit := by
  intro s d hd
  rw [exec_seg_of_some (patternFor_eq_getD hd), romPat_toList, State.writeResult]

/-- Settles O10: the digit has no pattern, so SEG raises InvalidDigit, which sets FID alone. -/
theorem segOfAnInvalidDigitCompletes : Obligations.SegOfAnInvalidDigitCompletes := by
  intro s d hd
  rw [exec_seg_of_none (patternFor_of_ge hd), State.raise]

/-! ### DP (R78, R79) -/

theorem exec_dp (p : Byte) (s : State) : exec (.dp p) s = .next (s.writeResult (withDecimalPoint p)) := rfl

/-- Settles O11: DP writes `withDecimalPoint p`, which is `p & 0x7F`. -/
theorem dpClearsBitSevenIntoResult : Obligations.DpClearsBitSevenIntoResult := by
  intro s p
  rw [exec_dp, withDecimalPoint, State.writeResult]

/-- Lighting the decimal point keeps bits 6 to 0 and clears the bits above. -/
theorem withDecimalPoint_getLsbD (p : Byte) (j : Nat) :
    (withDecimalPoint p).getLsbD j = (p.getLsbD j && decide (j < 7)) := by
  have hmask : (0x7F : Byte) = (BitVec.allOnes 7).setWidth 8 := rfl
  have hlt : (j < 8 ∧ j < 7) ↔ j < 7 := by omega
  rw [withDecimalPoint, BitVec.getLsbD_and, hmask, BitVec.getLsbD_setWidth, BitVec.getLsbD_allOnes,
    ← Bool.decide_and, decide_eq_decide.2 hlt]

theorem withDecimalPoint_idempotent (p : Byte) : withDecimalPoint (withDecimalPoint p) = withDecimalPoint p := by
  rw [withDecimalPoint, withDecimalPoint, BitVec.and_assoc, BitVec.and_self]

theorem withDecimalPoint_bits_6_0 (p : Byte) : (withDecimalPoint p).extractLsb' 0 7 = p.extractLsb' 0 7 := by
  apply BitVec.eq_of_getLsbD_eq
  intro j hj
  simp [withDecimalPoint_getLsbD, hj]

theorem withDecimalPoint_bit_7 (p : Byte) : (withDecimalPoint p).getLsbD 7 = false := by
  rw [withDecimalPoint_getLsbD, decide_eq_false (by omega), Bool.and_false]

/-- Settles O12: the laws bit by bit, and the ten entries of `ROM_PAT` evaluated. -/
theorem decimalPointLaws : Obligations.DecimalPointLaws :=
  ⟨fun p => ⟨withDecimalPoint_idempotent p, withDecimalPoint_bits_6_0 p, withDecimalPoint_bit_7 p⟩,
    by rw [romPat_toList]; decide⟩

end Sys2Proof.Machine
end

section
/-! The framer's step statements (41_framer.md R83 to R88): SEND's acceptance and the five steps of a frame. -/

namespace Sys2Proof.Machine

/-! ### SEND's acceptance (R83) -/

theorem exec_send (a b : Byte) (s : State) :
    exec (.send a b) s = .next ((s.setMode .send).startFrame (joinBytes a b)) := rfl

/-- Settles O14: SEND starts the frame of its two bytes. -/
theorem sendLatchesItsFrameAndWritesNoPin : Obligations.SendLatchesItsFrameAndWritesNoPin := by
  intro s a b
  rw [exec_send, joinBytes, State.setMode, State.startFrame]

/-! ### A pin write that raises no line (R58) -/

/-- Driving a line low changes the line and the trace only. -/
theorem State.writePin_latch_low (s : State) :
    s.writePin .latch false = { s with latch := false, trace := s.trace ++ [.pin .latch false] } := rfl

theorem State.writePin_clock_low (s : State) :
    s.writePin .clock false = { s with clock := false, trace := s.trace ++ [.pin .clock false] } := rfl

theorem State.writePin_data_eq (s : State) (b : Bool) :
    s.writePin .data b = { s with data := b, trace := s.trace ++ [.pin .data b] } := rfl

/-- Driving CLOCK high shifts DATA into the receiver when CLOCK was low. -/
theorem State.writePin_clock_high (s : State) :
    s.writePin .clock true = { s with
      clock := true, trace := s.trace ++ [.pin .clock true],
      rx := if s.clock then s.rx else { s.rx with sr := s.rx.sr <<< 1 ||| (BitVec.ofBool s.data).setWidth 16 } } := by
  have hrx : s.rx.onPin s.data s.clock s.latch .clock true =
      if s.clock then s.rx else { s.rx with sr := s.rx.sr <<< 1 ||| (BitVec.ofBool s.data).setWidth 16 } := by
    cases hc : s.clock with
    | true => rfl
    | false => rw [Receiver.onPin_clock_rise, ← Receiver.shift_sr_eq]; rfl
  rw [← hrx]
  rfl

/-- Driving LATCH high commits the shift register when LATCH was low. -/
theorem State.writePin_latch_high (s : State) :
    s.writePin .latch true = { s with
      latch := true, trace := s.trace ++ [.pin .latch true],
      rx := if s.latch then s.rx else { s.rx with out := s.rx.sr } } := by
  have hrx : s.rx.onPin s.data s.clock s.latch .latch true =
      if s.latch then s.rx else { s.rx with out := s.rx.sr } := by
    cases hl : s.latch <;> rfl
  rw [← hrx]
  rfl

/-! ### The five steps of a frame (R84 to R88) -/

/-- Settles O31: LATCH falls, which the receiver does not see. -/
theorem stepLZeroDrivesLatchLow : Obligations.StepLZeroDrivesLatchLow := by
  intro s hr hp
  rw [step_busy hr (by simp [hp]), sequencerStep, State.takeInputs_phase, hp,
    stepL0, State.writePin_latch_low]
  rfl

/-- Settles O32: DATA moves, which the receiver does not see. -/
theorem stepDsetDrivesTheCurrentBit : Obligations.StepDsetDrivesTheCurrentBit := by
  intro s hr hp
  rw [step_busy hr (by simp [hp]), sequencerStep, State.takeInputs_phase, hp,
    stepDset, State.writePin_data_eq]
  rfl

/-- Settles O33: CLOCK rises if it was low, and the receiver shifts. -/
theorem stepChDrivesClockHigh : Obligations.StepChDrivesClockHigh := by
  intro s hr hp
  rw [step_busy hr (by simp [hp]), sequencerStep, State.takeInputs_phase, hp,
    stepCh, State.writePin_clock_high]
  rfl

/-- Settles O34: CLOCK falls, then the next bit is taken above bit 0 and the frame is committed at bit 0. -/
theorem stepClDrivesClockLowAndCounts : Obligations.StepClDrivesClockLowAndCounts := by
  intro s hr hp
  rw [step_busy hr (by simp [hp]), sequencerStep, State.takeInputs_phase, hp]
  refine ⟨fun n hn => ?_, fun h0 => ?_⟩
  · have hpos : 0 < s.takeInputs.k := by simp [Fin.lt_def, hn]
    have hpred : s.takeInputs.k - 1 = n := by rw [State.takeInputs_k]; omega
    rw [stepCl_of_pos hpos, hpred, State.writePin_clock_low]
    rfl
  · have hzero : s.takeInputs.k = 0 := Fin.ext h0
    rw [stepCl_of_zero hzero, State.writePin_clock_low]
    rfl

/-- Settles O35: LATCH rises if it was low and the receiver commits; the mode says where the step leads. -/
theorem stepLOneCommitsAndLeaves : Obligations.StepLOneCommitsAndLeaves := by
  intro s hr hp
  rw [step_busy hr (by simp [hp]), sequencerStep, State.takeInputs_phase, hp,
    stepL1, State.writePin_latch_high]
  rfl

end Sys2Proof.Machine
end

section
/-! The frame's trace (41_framer.md R89, R90): its events counted line by line, the levels along it, and the 51 steps of
a SEND. -/

namespace Sys2Proof.Machine

/-! ### The events of a frame, line by line (R90) -/

/-- The event is a write of line `l`. -/
def Event.writes (l : Line) (e : Event) : Bool := e = .pin l true ∨ e = .pin l false

@[simp] theorem Event.writes_pin (l l' : Line) (b : Bool) : (Event.pin l' b).writes l = decide (l' = l) := by
  cases b <;> simp [Event.writes]

theorem bitsTrace_length (f : Half) (n : Nat) : (bitsTrace f n).length = 3 * n := by
  induction n with
  | zero => rfl
  | succ n ih => rw [bitsTrace, List.length_append, ih, bitTrace, Nat.mul_succ, Nat.add_comm]; rfl

/-- The CLOCK events of `n` bits are `n` pulses. -/
theorem bitsTrace_clock (f : Half) (n : Nat) :
    (bitsTrace f n).filter (Event.writes .clock) =
      (List.replicate n [Event.pin .clock true, .pin .clock false]).flatten := by
  induction n with
  | zero => rfl
  | succ n ih => simp [bitsTrace, bitTrace, ih, List.replicate_succ]

/-- The DATA events of `n` bits are the bits from the highest down. -/
theorem bitsTrace_data (f : Half) (n : Nat) :
    (bitsTrace f n).filter (Event.writes .data) =
      (List.range n).reverse.map fun k => Event.pin .data (f.getLsbD k) := by
  induction n with
  | zero => rfl
  | succ n ih => simp [bitsTrace, bitTrace, ih, List.range_succ]

/-- The bits of a frame write DATA and CLOCK only. -/
theorem eq_pin_of_mem_bitsTrace {f : Half} {n : Nat} {e : Event} (h : e ∈ bitsTrace f n) :
    ∃ l b, l ≠ .latch ∧ e = .pin l b := by
  induction n with
  | zero => simp [bitsTrace] at h
  | succ n ih =>
    obtain h | h := List.mem_append.1 h
    · simp only [bitTrace, List.mem_cons, List.not_mem_nil, or_false] at h
      obtain rfl | rfl | rfl := h
      · exact ⟨.data, _, nofun, rfl⟩
      · exact ⟨.clock, _, nofun, rfl⟩
      · exact ⟨.clock, _, nofun, rfl⟩
    · exact ih h

theorem bitsTrace_count_latch (f : Half) (n : Nat) (b : Bool) : (bitsTrace f n).count (.pin .latch b) = 0 := by
  rw [List.count_eq_zero]
  intro h
  obtain ⟨l, _, hl, he⟩ := eq_pin_of_mem_bitsTrace h
  simp only [Event.pin.injEq] at he
  exact hl he.1.symm

theorem frameTrace_eq_cons (f : Half) :
    frameTrace f = .pin .latch false :: (bitsTrace f 16 ++ [.pin .latch true]) := rfl

/-! ### The levels along a frame (R90) -/

/-- Writes of DATA and CLOCK leave the level of LATCH alone. -/
theorem foldl_observe_latch {es : List Event} (h : ∀ e ∈ es, ∃ l b, l ≠ .latch ∧ e = .pin l b) (w : Wire) :
    (es.foldl Wire.observe w).latch = w.latch := by
  induction es generalizing w with
  | nil => rfl
  | cons e es ih =>
    obtain ⟨he, hes⟩ := List.forall_mem_cons.1 h
    obtain ⟨l, b, hl, rfl⟩ := he
    rw [List.foldl_cons, ih hes]
    cases l with
    | data => rfl
    | clock => rfl
    | latch => exact absurd rfl hl

/-- LATCH is low from a frame's first event until its last. -/
theorem foldl_observe_take_frameTrace_latch (f : Half) (w : Wire) {n : Nat} (h1 : 1 ≤ n) (hn : n ≤ 49) :
    (((frameTrace f).take n).foldl Wire.observe w).latch = false := by
  obtain ⟨m, rfl⟩ := Nat.exists_eq_add_of_le' h1
  rw [frameTrace_eq_cons, List.take_succ_cons, List.take_append_of_le_length (by rw [bitsTrace_length]; omega),
    List.foldl_cons, foldl_observe_latch fun e he => eq_pin_of_mem_bitsTrace (List.mem_of_mem_take he)]
  rfl

/-- The last bit's pulse leaves DATA at bit 0 and CLOCK low, whatever the levels were. -/
theorem foldl_observe_bitsTrace_levels (f : Half) (n : Nat) (w : Wire) :
    ((bitsTrace f (n + 1)).foldl Wire.observe w).data = f.getLsbD 0 ∧
      ((bitsTrace f (n + 1)).foldl Wire.observe w).clock = false := by
  induction n generalizing w with
  | zero => exact ⟨rfl, rfl⟩
  | succ n ih =>
    rw [bitsTrace, List.foldl_append]
    exact ih _

/-- A frame played over any lines ends with DATA at bit 0, CLOCK low and LATCH high. -/
theorem foldl_observe_frameTrace_levels (f : Half) (w : Wire) :
    ((frameTrace f).foldl Wire.observe w).data = f.getLsbD 0 ∧
      ((frameTrace f).foldl Wire.observe w).clock = false ∧ ((frameTrace f).foldl Wire.observe w).latch = true := by
  obtain ⟨hdata, hclock⟩ := foldl_observe_bitsTrace_levels f 15 (w.observe (.pin .latch false))
  rw [frameTrace_eq_cons, List.foldl_cons, List.foldl_append]
  exact ⟨hdata, hclock, rfl⟩

/-- Settles O39: the events by line from those of the bits, between the two LATCH writes, and the levels by replay. -/
theorem frameTraceCounts : Obligations.FrameTraceCounts := by
  intro f
  refine ⟨?_, ?_, ?_, rfl, ?_, ?_, ?_, fun w n h1 hn => foldl_observe_take_frameTrace_latch f w h1 hn,
    foldl_observe_frameTrace_levels f⟩
  · simp [frameTrace, bitsTrace_length]
  · change (frameTrace f).filter (Event.writes .clock) = _
    simp [frameTrace, bitsTrace_clock]
  · change (frameTrace f).filter (Event.writes .data) = _
    simp [frameTrace, bitsTrace_data]
  · exact List.getLast?_concat
  · simp [frameTrace, bitsTrace_count_latch]
  · simp [frameTrace, bitsTrace_count_latch]

/-! ### What a busy run uses and what it leaves alone (R24) -/

/-- A run uses up one input per step. -/
theorem runSteps_env {n : Nat} {s t : State} (h : runSteps n s = .next t) : t.env = s.env.drop n := by
  induction n generalizing s with
  | zero =>
    obtain rfl : s = t := by simpa [runSteps_zero] using h
    rfl
  | succ n ih =>
    obtain ⟨u, hu, henv, _⟩ := step_total s
    rw [ih (runSteps_succ n hu ▸ h), henv, List.drop_tail]

/-- An undisturbed busy run leaves the latched operands, RESULT and the flags alone. -/
theorem busy_run_frame {n : Nat} {s t : State} (hn : n ≤ stepsLeft s) (hu : s.undisturbed n = true)
    (h : runSteps n s = .next t) :
    t.mode = s.mode ∧ t.val = s.val ∧ t.sd = s.sd ∧ t.dpi = s.dpi ∧ t.result = s.result ∧ t.rv = s.rv ∧
      t.fid = s.fid ∧ t.fic = s.fic := by
  induction n generalizing s with
  | zero =>
    obtain rfl : s = t := by simpa [runSteps_zero] using h
    exact ⟨rfl, rfl, rfl, rfl, rfl, rfl, rfl, rfl⟩
  | succ n ih =>
    have hp : s.phase ≠ .idle := fun hp => by rw [(stepsLeft_eq_zero_iff s).2 hp] at hn; omega
    have hstep := step_busy (undisturbed_succ hu) hp
    have hleft : stepsLeft (sequencerStep s.takeInputs) + 1 = stepsLeft s :=
      stepsLeft_sequencerStep (s := s.takeInputs) hp
    obtain ⟨_, _, _, _, _, _, _, _, henv, _⟩ := sequencerStep_frame s.takeInputs
    have hrest := ih (by omega) (undisturbed_tail hu henv) (runSteps_succ n hstep ▸ h)
    have hfirst := busyStepsKeepOperandsAndRegisters s _ (undisturbed_succ hu) hp hstep
    simpa only [hfirst] using hrest

/-! ### The 51 steps of a SEND (R89) -/

theorem bitsTrace_eq_flatMap (f : Half) (n : Nat) : bitsTrace f n = (List.range n).reverse.flatMap (bitTrace f) := by
  induction n with
  | zero => rfl
  | succ n ih => simp [bitsTrace, ih, List.range_succ]

/-- After each of its first 50 steps a SEND has steps left. -/
theorem send_busy {s : State} {a b : Byte} (h : s.accepts (.send a b)) (hu : s.undisturbed 51 = true) {n : Nat}
    (h1 : 1 ≤ n) (hn : n ≤ 50) : ∃ u, runSteps n s = .next u ∧ u.phase ≠ .idle := by
  obtain ⟨m, rfl⟩ := Nat.exists_eq_add_of_le' h1
  have hleft := sendAccepted_stepsLeft s a b
  have hu' : (sendAccepted s a b).undisturbed m = true :=
    undisturbed_mono (by omega) (undisturbed_tail (n := 50) hu rfl)
  obtain ⟨u, hrun, hcount, _⟩ := busy_run (s := sendAccepted s a b) nofun (by omega) hu'
  refine ⟨u, (runSteps_succ m (step_send h)).trans hrun, fun hidle => ?_⟩
  have := (stepsLeft_eq_zero_iff u).2 hidle
  omega

/-- Settles O40: the SEND emits its frame by `send_run`, whose levels `foldl_observe_frameTrace_levels` gives, and a
busy run leaves the registers alone. -/
theorem sendIsItsFrameInFiftyOneSteps : Obligations.SendIsItsFrameInFiftyOneSteps := by
  intro s a b h hu
  refine ⟨fun n h1 hn => send_busy h hu h1 hn, ?_⟩
  obtain ⟨t, hrun, hidle, htrace, hwire⟩ := send_run h hu
  obtain ⟨hdata, hclock, hlatch⟩ := foldl_observe_frameTrace_levels (joinBytes a b) s.wire
  rw [← hwire] at hdata hclock hlatch
  obtain ⟨_, _, _, _, hresult, hrv, hfid, hfic⟩ := busy_run_frame (sendAccepted_stepsLeft s a b).ge
    (undisturbed_tail hu rfl) ((runSteps_succ 50 (step_send h)).symm.trans hrun)
  refine ⟨t, hrun, ?_, hidle, hdata.trans (joinBytes_getLsbD a b 0), hclock, hlatch, runSteps_env hrun, hresult, hrv,
    hfid, hfic⟩
  rw [htrace, frameTrace, bitsTrace_eq_flatMap]
  rfl

end Sys2Proof.Machine
end

section
/-! The machine's invariant (41_framer.md R91, 20_memory.md R59): the line, sequencer and receiver invariants where runs
start, after acceptance and under the sequencer's step. -/

namespace Sys2Proof.Machine

/-! ### The invariant in IDLE and at the start of a frame -/

/-- In IDLE the invariant asks for CLOCK low only (R91). -/
theorem State.Inv.of_idle {s : State} (hp : s.phase = .idle) (hc : s.clock = false) : s.Inv where
  lines := by constructor <;> simp [hp, hc]
  sequencer := by constructor <;> simp [hp]
  receiver := by constructor <;> simp [hp]

/-- At the start of a frame it asks for CLOCK low, bit 15 and, in a RENDER, the frame of the position. -/
theorem State.Inv.of_frameStart {s : State} (hp : s.phase = .l0) (hc : s.clock = false) (hk : s.k = 15)
    (hf : s.mode = .render → s.frame = renderFrame s.val s.sd s.dpi s.pos) : s.Inv where
  lines := by constructor <;> simp [hp, hc]
  sequencer := ⟨by simp [hp], fun _ => hk, by simp [hp], fun _ => hf⟩
  receiver := by constructor <;> simp [hp]

/-- Settles O47: a run starts in IDLE with CLOCK low. -/
theorem runsStartInTheMachineInvariant : Obligations.RunsStartInTheMachineInvariant :=
  ⟨fun _ _ => .of_idle rfl rfl, .of_idle rfl rfl⟩

/-- The invariant speaks of no field that is the host's. -/
theorem State.Inv.takeInputs {s : State} (h : s.Inv) : s.takeInputs.Inv := by
  obtain ⟨⟨hlow, hhigh, hdata, hlatch, hhold⟩, ⟨hmode, hfirst, hlast, hframe⟩,
    ⟨hbefore, hafter, hshifted, hcommitted⟩⟩ := h
  exact ⟨⟨hlow, hhigh, hdata, hlatch, hhold⟩, ⟨hmode, hfirst, hlast, hframe⟩,
    ⟨hbefore, hafter, hshifted, hcommitted⟩⟩

/-! ### Acceptance keeps the invariant -/

theorem exec_inv {i : Instr} {s t : State} (hp : s.phase = .idle) (hc : s.clock = false) (h : exec i s = .next t) :
    t.Inv := by
  obtain ⟨_, _, _, _, rfl⟩ | ⟨_, _, _, rfl⟩ | ⟨_, _, rfl⟩ | ⟨_, _, _, rfl⟩ | ⟨_, _, _, _, rfl⟩ := exec_next_cases h
  · exact .of_idle hp hc
  · exact .of_idle hp hc
  · exact .of_idle hp hc
  · exact .of_frameStart rfl hc rfl nofun
  · exact .of_frameStart rfl hc rfl fun _ => rfl

theorem accept_inv {w : Word} {s t : State} (hp : s.phase = .idle) (hc : s.clock = false)
    (h : accept w s = .next t) : t.Inv := by
  obtain ⟨_, _, he⟩ | ⟨_, _, rfl⟩ := accept_next_cases h
  · exact exec_inv hp hc he
  · exact .of_idle hp hc

/-! ### The sequencer's step keeps the invariant -/

/-- The line invariants carry themselves: each phase's pin write gives the level the next phase asks for (R91). -/
theorem State.LinesOk.sequencerStep {s : State} (h : s.LinesOk) : (sequencerStep s).LinesOk := by
  obtain ⟨hlow, hhigh, hdata, hlatch, hhold⟩ := h
  apply sequencerStep_cases (P := State.LinesOk)
  case idle => exact fun _ => ⟨hlow, hhigh, hdata, hlatch, hhold⟩
  case l0 => intro hp; constructor <;> simp [stepL0, hlow, hp]
  case dset => intro hp; constructor <;> simp [stepDset, hlow, hlatch, hp]
  case ch => intro hp; constructor <;> simp [stepCh, hdata, hlatch, hp]
  case clNext | clDone => intro hp _; constructor <;> simp [hlatch, hp]
  case l1 => intro hp; cases hm : s.mode <;> constructor <;> simp [stepL1, hm, afterCommit, hlow, hp]
  case settleNext | settleDone => intro hp _; constructor <;> simp [hlow, hp]

/-- So do the sequencer's: CL finishes the bits at bit 0, L1 holds in a RENDER only, and a settle end latches the
frame of the position it goes to (R29, R100). -/
theorem State.SequencerOk.sequencerStep {s : State} (h : s.SequencerOk) : (sequencerStep s).SequencerOk := by
  obtain ⟨hmode, hfirst, hlast, hframe⟩ := h
  have hbusy : ∀ {p}, s.phase = p → p ≠ .idle → s.mode = .render → s.frame = renderFrame s.val s.sd s.dpi s.pos :=
    fun hp hne => hframe (hp ▸ hne)
  apply sequencerStep_cases (P := State.SequencerOk)
  case idle => exact fun _ => ⟨hmode, hfirst, hlast, hframe⟩
  case l0 => exact fun hp => ⟨nofun, nofun, by simp [stepL0], fun _ => hbusy hp nofun⟩
  case dset => exact fun hp => ⟨nofun, nofun, by simp [stepDset], fun _ => hbusy hp nofun⟩
  case ch => exact fun hp => ⟨nofun, nofun, by simp [stepCh], fun _ => hbusy hp nofun⟩
  case clNext => exact fun hp _ => ⟨nofun, nofun, by simp, fun _ => hbusy hp nofun⟩
  case clDone => exact fun hp hk => ⟨nofun, nofun, fun _ => hk, fun _ => hbusy hp nofun⟩
  case l1 =>
    intro hp
    refine ⟨?_, ?_, fun _ => hlast (.inl hp), fun _ => hbusy hp nofun⟩ <;>
      cases hm : s.mode <;> simp [stepL1, hm, afterCommit]
  case settleNext => exact fun _ _ => ⟨nofun, fun _ => rfl, by simp, fun _ _ => rfl⟩
  case settleDone => exact fun _ _ => ⟨nofun, nofun, by simp, nofun⟩

/-- The shift register holds the bits of the frame down to `n`, the last one shifted in lowest (R59). -/
def HoldsFrom (n : Nat) (sr frame : Half) : Prop := ∀ j, n ≤ j → j < 16 → sr.getLsbD (j - n) = frame.getLsbD j

/-- The rise of CLOCK shifts the next bit in. -/
theorem HoldsFrom.shift {r : Receiver} {f : Half} {n : Nat} (h : HoldsFrom (n + 1) r.sr f) :
    HoldsFrom n (r.shift (f.getLsbD n)).sr f := by
  intro j hn hj
  obtain rfl | hlt := hn.eq_or_lt
  · rw [Nat.sub_self, Receiver.shift_bit_zero]
  · rw [show j - n = (j - (n + 1)) + 1 by omega, Receiver.shift_bit_succ _ _ (by omega), h j hlt hj]

theorem HoldsFrom.eq {sr f : Half} (h : HoldsFrom 0 sr f) : sr = f :=
  BitVec.eq_of_getLsbD_eq fun j hj => h j j.zero_le hj

/-- The receiver takes DATA, the current bit, as CLOCK rises from low, and commits as LATCH rises from low; a frame
starts at bit 15, above which it has no bit (R58, R59). -/
theorem State.ReceiverOk.sequencerStep {s : State} (hlines : s.LinesOk) (hseq : s.SequencerOk) (h : s.ReceiverOk) :
    (sequencerStep s).ReceiverOk := by
  obtain ⟨hbefore, hafter, hshifted, hcommitted⟩ := h
  apply sequencerStep_cases (P := State.ReceiverOk)
  case idle => exact fun _ => ⟨hbefore, hafter, hshifted, hcommitted⟩
  case l0 =>
    intro hp
    have hk := hseq.first_bit hp
    refine ⟨fun _ j hj hj' => ?_, nofun, nofun, nofun⟩
    have : 15 < j := by simpa [stepL0, hk] using hj
    omega
  case dset => exact fun hp => ⟨fun _ => hbefore (.inl hp), nofun, nofun, nofun⟩
  case ch =>
    intro hp
    have hrx : (stepCh s).rx = s.rx.shift (s.frame.getLsbD s.k) := by
      simp [stepCh, hlines.clock_low (by simp [hp]), Receiver.onPin_clock_rise, hlines.data_stable (.inl hp)]
    refine ⟨by simp [stepCh], fun _ => ?_, nofun, nofun⟩
    rw [hrx]
    exact HoldsFrom.shift (hbefore (.inr hp))
  case clNext =>
    intro hp hk
    have hpred : (s.k - 1).val + 1 = s.k.val := by rw [Fin.lt_def] at hk; simp at hk; omega
    have hholds : HoldsFrom ((s.k - 1).val + 1) s.rx.sr s.frame := by rw [hpred]; exact hafter hp
    exact ⟨fun _ => hholds, nofun, nofun, nofun⟩
  case clDone =>
    intro hp hk
    have hholds : HoldsFrom s.k s.rx.sr s.frame := hafter hp
    rw [hk] at hholds
    exact ⟨by simp, nofun, fun _ => hholds.eq, nofun⟩
  case l1 =>
    intro hp
    have hrx : (stepL1 s).rx = s.rx.commit := by
      simp [stepL1, hlines.latch_low (by simp [hp]), Receiver.onPin_latch_rise]
    have hsr := hshifted hp
    refine ⟨?_, ?_, ?_, fun _ => by rw [hrx]; exact ⟨hsr, hsr⟩⟩ <;>
      cases hm : s.mode <;> simp [stepL1, hm, afterCommit]
  case settleNext | settleDone => intro _ _; constructor <;> simp

/-- Settles O46: acceptance and reset lead to IDLE or to the start of a frame with CLOCK low, and the sequencer's step
keeps the three parts of the invariant. -/
theorem stepKeepsTheMachineInvariant : Obligations.StepKeepsTheMachineInvariant := by
  intro s t hinv h
  have hclock : s.phase = .idle → s.clock = false := fun hp => hinv.lines.clock_low (by simp [hp])
  obtain ⟨_, rfl⟩ | ⟨_, hp, _, rfl⟩ | ⟨_, hp, _, ha⟩ | ⟨_, _, rfl⟩ := step_next_cases h
  · exact .of_idle rfl rfl
  · exact .of_idle hp (hclock hp)
  · exact accept_inv (s := s.takeInputs) hp (hclock hp) ha
  · obtain ⟨hlines, hseq, hrx⟩ := hinv.takeInputs
    exact ⟨hlines.sequencerStep, hseq.sequencerStep, hrx.sequencerStep hlines hseq⟩

end Sys2Proof.Machine
end

section
/-! The scan's statements (42_scan.md): the digits and the frame of a position, RENDER's acceptance, the settle end, and
the four frames of a RENDER with the receiver after each. -/

namespace Sys2Proof.Machine

/-! ### The digits of a value (R96) -/

/-- Settles O16: the digits are the successive quotients modulo 10, whose weighted sum `omega` recomposes. -/
theorem digitsAreTheDecimalDigitsOfTheValue : Obligations.DigitsAreTheDecimalDigitsOfTheValue := by
  intro v
  have h0 : (digit v 0).val = v.toNat / 1000 % 10 := rfl
  have h1 : (digit v 1).val = v.toNat / 100 % 10 := rfl
  have h2 : (digit v 2).val = v.toNat / 10 % 10 := rfl
  have h3 : (digit v 3).val = v.toNat / 1 % 10 := rfl
  refine ⟨h0, h1, h2, h3, fun i => Nat.le_of_lt_succ (digit v i).isLt, ?_, fun i => Nat.div_le_self _ _⟩
  rw [h0, h1, h2, h3]
  omega

/-! ### The frame of a position (R97, R98) -/

/-- A digit's entry of `ROM_PAT`, read as a list. -/
theorem romPat_digit_eq_getD (v : Half) (i : Fin 4) :
    romPat[digit v i] = romPat.toList.getD (digit v i).val 0 := by
  have hlen : (digit v i).val < romPat.toList.length := (digit v i).isLt
  rw [List.getD_eq_getElem _ _ hlen, Vector.getElem_toList]
  rfl

/-- The decimal point is a mask over the digit's pattern: bit 7 cleared where it is lit, nothing elsewhere. -/
theorem renderPattern_eq_mask (v : Half) (sd : Bool) (dpi i : Fin 4) :
    renderPattern v sd dpi i = (if sd = true ∧ i = dpi then 0x7F#8 else 0xFF#8) &&& romPat[digit v i] := by
  have hall : (0xFF#8 : Byte) = BitVec.allOnes 8 := rfl
  unfold renderPattern
  split
  · exact BitVec.and_comm _ _
  · rw [hall, BitVec.allOnes_and]

theorem romSel_getLsbD (i : Fin 4) {j : Nat} (hj : j < 8) : romSel[i].getLsbD j = true ↔ j = i.val := by
  revert i j
  decide

/-- The select byte of a frame is one-hot at the position. -/
theorem renderFrame_getLsbD (v : Half) (sd : Bool) (dpi i : Fin 4) {j : Nat} (hj : j < 8) :
    (renderFrame v sd dpi i).getLsbD j = true ↔ j = i.val := by
  rw [renderFrame, joinBytes_getLsbD, if_pos hj, romSel_getLsbD i hj]

/-- Without a decimal point its position does not matter (R69). -/
theorem renderFrame_no_point (v : Half) (dpi dpi' i : Fin 4) :
    renderFrame v false dpi i = renderFrame v false dpi' i := by
  simp [renderFrame, renderPattern]

/-- Settles O17: the two bytes apart, the pattern as a mask over the table and the select byte as a shift. -/
theorem renderFrameIsPatternThenSelect : Obligations.RenderFrameIsPatternThenSelect := by
  intro v sd dpi i
  refine ⟨?_, ?_, fun j hj => renderFrame_getLsbD v sd dpi i hj, ?_⟩
  · rw [renderFrame_high, renderPattern_eq_mask, romPat_digit_eq_getD, romPat_toList]
  · rw [renderFrame_low, romSel_eq_shift]
  · rintro rfl
    exact renderFrame_no_point v dpi 0 i

/-! ### RENDER's acceptance (R95) -/

/-- The state in which a RENDER of these operands starts its first frame. -/
def State.startRender (s : State) (v : Half) (sd : Bool) (dpi : Fin 4) : State :=
  (((s.latchOperands v sd dpi).setPos 0).setMode .render).startFrame (renderFrame v sd dpi 0)

theorem exec_render (v : Half) (sd : Bool) (dpi : Fin 4) (s : State) :
    exec (.render v sd dpi) s = .next (s.startRender v sd dpi) := rfl

/-- Settles O15: RENDER latches its operands and starts the frame of position 0. -/
theorem renderLatchesItsOperandsAndFirstFrame : Obligations.RenderLatchesItsOperandsAndFirstFrame := by
  intro s v sd dpi
  rw [exec_render, State.startRender, State.latchOperands, State.setPos, State.setMode, State.startFrame]

theorem step_render {s : State} {v : Half} {sd : Bool} {dpi : Fin 4} (h : s.accepts (.render v sd dpi)) :
    step s = .next (s.takeInputs.startRender v sd dpi) := by
  obtain ⟨hacc, hdec⟩ := h
  rw [step_accepting hacc, accept_of_decode hdec, exec_render]

/-! ### The settle end (R100) -/

/-- Settles O36: below position 3 the settle end starts the next frame, at position 3 it only leaves SETTLE. -/
theorem settleEndTakesTheNextPosition : Obligations.SettleEndTakesTheNextPosition := by
  intro s hr hp
  rw [step_busy hr (by simp [hp]), sequencerStep, State.takeInputs_phase, hp]
  refine ⟨fun p hpos => ?_, fun hlast => ?_⟩
  · have hlt : s.takeInputs.pos < 3 := by rw [State.takeInputs_pos, Fin.lt_def]; simp; omega
    have hnext : s.takeInputs.pos + 1 = p := by rw [State.takeInputs_pos]; omega
    rw [stepSettle_of_lt hlt, hnext]
    rfl
  · have hlast' : s.takeInputs.pos = 3 := hlast
    rw [stepSettle_of_last hlast']
    rfl

/-! ### The settle holds of a RENDER (R99, R101) -/

theorem startRender_stepsLeft (s : State) (v : Half) (sd : Bool) (dpi : Fin 4) :
    stepsLeft (s.startRender v sd dpi) = 204 := by
  simp [State.startRender, stepsLeft, stepsAfterFrame]

theorem startRender_eventsLeft (s : State) (v : Half) (sd : Bool) (dpi : Fin 4) :
    eventsLeft (s.startRender v sd dpi) = renderTrace v sd dpi := by
  simp [State.startRender, eventsLeft, eventsAfterFrame, renderTrace, frameTrace]

theorem startRender_sequencerOk (s : State) (v : Half) (sd : Bool) (dpi : Fin 4) :
    (s.startRender v sd dpi).SequencerOk :=
  ⟨nofun, fun _ => rfl, by simp [State.startRender], fun _ _ => rfl⟩

/-- What the sequencer's step keeps holds along an undisturbed busy run. -/
theorem busy_run_keeps {P : State → Prop} (hP : ∀ s, P s → P (sequencerStep s.takeInputs)) {n : Nat} {s t : State}
    (hn : n ≤ stepsLeft s) (hu : s.undisturbed n = true) (h : runSteps n s = .next t) (hs : P s) : P t := by
  induction n generalizing s with
  | zero =>
    obtain rfl : s = t := by simpa [runSteps_zero] using h
    exact hs
  | succ n ih =>
    have hp : s.phase ≠ .idle := fun hp => by rw [(stepsLeft_eq_zero_iff s).2 hp] at hn; omega
    have hleft : stepsLeft (sequencerStep s.takeInputs) + 1 = stepsLeft s :=
      stepsLeft_sequencerStep (s := s.takeInputs) hp
    obtain ⟨_, _, _, _, _, _, _, _, henv, _⟩ := sequencerStep_frame s.takeInputs
    exact ih (by omega) (undisturbed_tail hu henv) (runSteps_succ n (step_busy (undisturbed_succ hu) hp) ▸ h) (hP s hs)

theorem State.SequencerOk.takeInputs {s : State} (h : s.SequencerOk) : s.takeInputs.SequencerOk := by
  obtain ⟨hmode, hfirst, hlast, hframe⟩ := h
  exact ⟨hmode, hfirst, hlast, hframe⟩

/-- In a RENDER the number of steps left, modulo 51, singles out the settle holds. -/
theorem settle_of_stepsLeft {s : State} (hm : s.mode = .render) {i : Fin 4}
    (h : stepsLeft s = 1 + 51 * (3 - i.val)) : s.phase = .settle ∧ s.pos = i := by
  have hk := s.k.isLt
  have hp := s.pos.isLt
  have hi := i.isLt
  simp only [stepsLeft, hm, stepsAfterFrame] at h
  cases hphase : s.phase with
  | settle =>
    refine ⟨rfl, Fin.ext ?_⟩
    simp only [hphase] at h
    split at h <;> omega
  | _ => simp only [hphase] at h; omega

/-- The 51st step after acceptance and every 51st after it lead to the settle hold of the next position, its frame
still latched. -/
theorem render_hold {s : State} {v : Half} {sd : Bool} {dpi : Fin 4} (h : s.accepts (.render v sd dpi)) (i : Fin 4)
    (hu : s.undisturbed (51 * (i.val + 1)) = true) :
    ∃ t, runSteps (51 * (i.val + 1)) s = .next t ∧ t.phase = .settle ∧ t.pos = i ∧ t.frame = renderFrame v sd dpi i := by
  have hi := i.isLt
  have hlen : 51 * (i.val + 1) = (51 * i.val + 50) + 1 := by omega
  rw [hlen] at hu ⊢
  have hleft := startRender_stepsLeft s.takeInputs v sd dpi
  have hu' : (s.takeInputs.startRender v sd dpi).undisturbed (51 * i.val + 50) = true := undisturbed_tail hu rfl
  obtain ⟨t, hrun, hcount, _⟩ := busy_run (s := s.takeInputs.startRender v sd dpi) nofun (by omega) hu'
  obtain ⟨hmode, hval, hsd, hdpi, _⟩ := busy_run_frame (by omega) hu' hrun
  have hseq : t.SequencerOk := busy_run_keeps (fun _ hs => hs.takeInputs.sequencerStep) (by omega) hu' hrun
    (startRender_sequencerOk _ v sd dpi)
  obtain ⟨hphase, hpos⟩ := settle_of_stepsLeft (i := i) hmode (by omega)
  have hframe := hseq.render_frame (by simp [hphase]) hmode
  rw [hval, hsd, hdpi, hpos] at hframe
  exact ⟨t, (runSteps_succ _ (step_render h)).trans hrun, hphase, hpos, hframe⟩

/-! ### The 205 steps of a RENDER (R101) -/

theorem frameTrace_length (f : Half) : (frameTrace f).length = 50 := by simp [frameTrace, bitsTrace_length]

theorem renderTrace_length (v : Half) (sd : Bool) (dpi : Fin 4) : (renderTrace v sd dpi).length = 200 := by
  simp [renderTrace, frameTrace_length]

/-- The lines after a RENDER are those its last frame leaves: the select byte of position 3 ends in a 0. -/
theorem foldl_observe_renderTrace_levels (v : Half) (sd : Bool) (dpi : Fin 4) (w : Wire) :
    ((renderTrace v sd dpi).foldl Wire.observe w).data = false ∧
      ((renderTrace v sd dpi).foldl Wire.observe w).clock = false ∧
      ((renderTrace v sd dpi).foldl Wire.observe w).latch = true := by
  have hbit : (renderFrame v sd dpi 3).getLsbD 0 = false := by
    rw [Bool.eq_false_iff, ne_eq, renderFrame_getLsbD v sd dpi 3 (by omega)]
    decide
  obtain ⟨hdata, hclock, hlatch⟩ := foldl_observe_frameTrace_levels (renderFrame v sd dpi 3)
    ((frameTrace (renderFrame v sd dpi 0) ++ frameTrace (renderFrame v sd dpi 1) ++
      frameTrace (renderFrame v sd dpi 2)).foldl Wire.observe w)
  rw [renderTrace, List.foldl_append]
  exact ⟨hdata.trans hbit, hclock, hlatch⟩

/-- A busy block stays busy as long as it has steps left. -/
theorem busy_run_not_idle {n : Nat} {s : State} (hm : s.phase = .settle → s.mode = .render) (hn : n < stepsLeft s)
    (hu : s.undisturbed n = true) : ∃ t, runSteps n s = .next t ∧ t.phase ≠ .idle := by
  obtain ⟨t, hrun, hcount, _⟩ := busy_run hm hn.le hu
  refine ⟨t, hrun, fun hidle => ?_⟩
  have hnone := (stepsLeft_eq_zero_iff t).2 hidle
  omega

theorem render_busy {s : State} {v : Half} {sd : Bool} {dpi : Fin 4} (h : s.accepts (.render v sd dpi))
    (hu : s.undisturbed 205 = true) {n : Nat} (h1 : 1 ≤ n) (hn : n ≤ 204) :
    ∃ u, runSteps n s = .next u ∧ u.phase ≠ .idle := by
  obtain ⟨m, rfl⟩ := Nat.exists_eq_add_of_le' h1
  have hleft := startRender_stepsLeft s.takeInputs v sd dpi
  have hu' : (s.takeInputs.startRender v sd dpi).undisturbed 204 = true := undisturbed_tail hu rfl
  obtain ⟨u, hrun, hbusy⟩ := busy_run_not_idle (n := m) (s := s.takeInputs.startRender v sd dpi) nofun (by omega)
    (undisturbed_mono (by omega) hu')
  exact ⟨u, (runSteps_succ m (step_render h)).trans hrun, hbusy⟩

/-- A RENDER left undisturbed emits its four frames and is in IDLE after 205 steps, its registers untouched. -/
theorem render_run {s : State} {v : Half} {sd : Bool} {dpi : Fin 4} (h : s.accepts (.render v sd dpi))
    (hu : s.undisturbed 205 = true) :
    ∃ t, runSteps 205 s = .next t ∧ t.phase = .idle ∧ s.Emits (renderTrace v sd dpi) t ∧
      t.result = s.result ∧ t.rv = s.rv ∧ t.fid = s.fid ∧ t.fic = s.fic := by
  have hleft := startRender_stepsLeft s.takeInputs v sd dpi
  have hu' : (s.takeInputs.startRender v sd dpi).undisturbed 204 = true := undisturbed_tail hu rfl
  obtain ⟨t, hrun, hidle, hemits⟩ :=
    busy_run_to_idle (s := s.takeInputs.startRender v sd dpi) nofun (by rw [hleft]; exact hu')
  rw [hleft] at hrun
  rw [startRender_eventsLeft] at hemits
  obtain ⟨_, _, _, _, hregisters⟩ := busy_run_frame hleft.ge hu' hrun
  exact ⟨t, (runSteps_succ 204 (step_render h)).trans hrun, hidle, hemits, hregisters⟩

/-- The inputs of the last step of an undisturbed stretch hold no reset. -/
theorem undisturbed_last {n : Nat} {s t : State} (hu : s.undisturbed (n + 1) = true) (h : runSteps n s = .next t) :
    t.inputs.rst = false := by
  induction n generalizing s with
  | zero =>
    obtain rfl : s = t := by simpa [runSteps_zero] using h
    exact undisturbed_succ hu
  | succ n ih =>
    obtain ⟨u, hstep, henv, _⟩ := step_total s
    exact ih (undisturbed_tail hu henv) (runSteps_succ n hstep ▸ h)

/-- The last step of a RENDER is the settle end of position 3, which keeps the position and its frame. -/
theorem render_end {s t : State} {v : Half} {sd : Bool} {dpi : Fin 4} (h : s.accepts (.render v sd dpi))
    (hu : s.undisturbed 205 = true) (hrun : runSteps 205 s = .next t) :
    t.pos = 3 ∧ t.frame = renderFrame v sd dpi 3 := by
  obtain ⟨u, hhold, hphase, hpos, hframe⟩ := render_hold h 3 (undisturbed_mono (by decide) hu)
  have hlast := (settleEndTakesTheNextPosition u (undisturbed_last hu hhold) hphase).2 hpos
  have hend : runSteps 205 s = .next { u.takeInputs with phase := .idle } :=
    (runSteps_add 1 hhold).trans (runSteps_succ 0 hlast)
  obtain rfl : _ = t := Host.Outcome.next.inj (hend.symm.trans hrun)
  exact ⟨hpos, hframe⟩

/-- Settles O41: the events and the registers by `render_run`, the levels by replay, and the position and its frame
from the last settle hold by `render_end`. -/
theorem renderIsFourFramesInOrder : Obligations.RenderIsFourFramesInOrder := by
  intro s v sd dpi h hu
  refine ⟨renderTrace_length v sd dpi, fun n h1 hn => render_busy h hu h1 hn, ?_⟩
  obtain ⟨t, hrun, hidle, ⟨htrace, hwire⟩, hregisters⟩ := render_run h hu
  obtain ⟨hdata, hclock, hlatch⟩ := foldl_observe_renderTrace_levels v sd dpi s.wire
  rw [← hwire] at hdata hclock hlatch
  obtain ⟨hpos, hframe⟩ := render_end h hu hrun
  exact ⟨t, hrun, htrace, hidle, hdata, hclock, hlatch, hpos, hframe, runSteps_env hrun, hregisters⟩

/-! ### The receiver after each frame (R102, R59) -/

/-- Every run keeps the machine's invariant. -/
theorem runSteps_inv {n : Nat} {s t : State} (h : runSteps n s = .next t) (hs : s.Inv) : t.Inv := by
  induction n generalizing s with
  | zero =>
    obtain rfl : s = t := by simpa [runSteps_zero] using h
    exact hs
  | succ n ih =>
    obtain ⟨u, hstep, _⟩ := step_total s
    exact ih (runSteps_succ n hstep ▸ h) (stepKeepsTheMachineInvariant s u hs hstep)

theorem State.accepts.idle {s : State} {i : Instr} (h : s.accepts i) : s.phase = .idle := by
  have hready : s.cmdReady = true := (Bool.and_eq_true _ _ ▸ h.1).2
  exact ((State.cmdReady_iff s).1 hready).1

/-- Settles O43: each frame is followed by its settle hold, where the invariant says that the receiver has committed
the latched frame. -/
theorem renderLightsOneDigitAtATime : Obligations.RenderLightsOneDigitAtATime := by
  intro s v sd dpi i h hc hu
  obtain ⟨t, hrun, hphase, _, hframe⟩ := render_hold h i hu
  have hinv : t.Inv := runSteps_inv hrun (.of_idle h.idle hc)
  have hout : t.rx.out = renderFrame v sd dpi i := (hinv.receiver.committed hphase).2.trans hframe
  refine ⟨t, hrun, hout, ?_, fun j hj => ?_⟩
  · rw [Receiver.segments, hout, renderFrame_high]
  · rw [Receiver.digitLit, Receiver.select, hout, renderFrame_low, romSel_getLsbD i hj]

end Sys2Proof.Machine
end

section
/-! The exceptions' statements (60_exceptions.md): which steps set FID and FIC, that every command, step and run
completes, a host read of an invalid result, and the faulted states of a run. -/

namespace Sys2Proof.Machine

/-! ### Which words are illegal (R70, R71, R106) -/

theorem legalWord_iff_decode_ok {w : Word} : legalWord w = true ↔ ∃ i, decode w = .ok i := by
  obtain ⟨hdecode, _⟩ := wordsAreOneFormatOrIllegal w
  rw [hdecode]
  simp [legalWord, opcodeRows, OpcodeRow.covers, rowSeg, rowDp, rowSend, rowRender]

/-- Accepting an illegal word sets FIC alone (R106). -/
theorem step_accepting_illegal {s : State} {e : DecodeError} (ha : s.acceptsWord = true)
    (hd : decode s.inputs.cmd = .error e) : step s = .next { s.takeInputs with fic := true } :=
  (step_accepting ha).trans (accept_of_error hd s.takeInputs)

/-! ### Which steps set FID and FIC (R105 to R107) -/

/-- A digit that has no pattern is at least 10. -/
theorem ten_le_of_patternFor {d : BitVec 4} (h : patternFor d = none) : 10 ≤ d := by
  by_contra hd
  have hle : d ≤ 9 := by bv_omega
  simp [patternFor_of_le hle] at h

/-- A command leaves FID and FIC alone, or it is SEG of an invalid digit. -/
theorem exec_fid_fic {i : Instr} {s t : State} (h : exec i s = .next t) :
    (t.fid = s.fid ∧ t.fic = s.fic) ∨ (∃ d, i = .seg d ∧ 10 ≤ d ∧ t = s.raise (.invalidDigit d)) := by
  obtain ⟨_, _, _, _, rfl⟩ | ⟨d, rfl, hd, rfl⟩ | ⟨_, _, rfl⟩ | ⟨_, _, _, rfl⟩ | ⟨_, _, _, _, rfl⟩ :=
    exec_next_cases h
  · exact .inl ⟨rfl, rfl⟩
  · exact .inr ⟨d, rfl, ten_le_of_patternFor hd, rfl⟩
  · exact .inl ⟨rfl, rfl⟩
  · exact .inl ⟨rfl, rfl⟩
  · exact .inl ⟨rfl, rfl⟩

/-- Out of reset a step leaves FID and FIC alone, or it raises InvalidDigit for a SEG of an invalid digit, or
IllegalCommand for a word that does not decode. -/
theorem step_fid_fic {s t : State} (hr : s.inputs.rst = false) (h : step s = .next t) :
    (t.fid = s.fid ∧ t.fic = s.fic) ∨
    (∃ d, s.accepts (.seg d) ∧ 10 ≤ d ∧ t = s.takeInputs.raise (.invalidDigit d)) ∨
    (∃ e, s.acceptsWord = true ∧ decode s.inputs.cmd = .error e ∧
      t = s.takeInputs.raise (.illegalCommand s.inputs.cmd)) := by
  obtain ⟨hr', _⟩ | ⟨_, _, _, rfl⟩ | ⟨_, hp, hv, hacc⟩ | ⟨_, _, rfl⟩ := step_next_cases h
  · simp [hr] at hr'
  · exact .inl ⟨rfl, rfl⟩
  · have ha : s.acceptsWord = true := by simp [State.acceptsWord, hv, s.cmdReady_iff.2 ⟨hp, hr⟩]
    obtain ⟨i, hi, he⟩ | ⟨e, he, rfl⟩ := accept_next_cases hacc
    · obtain hsame | ⟨d, rfl, hd, rfl⟩ := exec_fid_fic he
      · exact .inl hsame
      · exact .inr (.inl ⟨d, ⟨ha, hi⟩, hd, rfl⟩)
    · exact .inr (.inr ⟨e, ha, he, rfl⟩)
  · obtain ⟨_, _, _, _, _, _, hfid, hfic, _⟩ := sequencerStep_frame s.takeInputs
    exact .inl ⟨hfid, hfic⟩

/-- Settles O9: accepting the SEG performs it, which sets FID alone; of what a step can do to FID and FIC, only that
touches FID. -/
theorem invalidDigitIsRaisedBySegAlone : Obligations.InvalidDigitIsRaisedBySegAlone := by
  refine fun s hr => ⟨fun d ⟨ha, hd⟩ hge => ?_, fun t h hlt => ?_⟩
  · rw [step_accepting ha, accept_of_decode hd, segOfAnInvalidDigitCompletes _ d hge]
  · obtain ⟨hfid, _⟩ | ⟨d, hacc, hge, _⟩ | ⟨_, _, _, rfl⟩ := step_fid_fic hr h
    · exact hfid
    · exact absurd (hlt d hacc) (BitVec.not_lt.2 hge)
    · rfl

/-- Settles O20: each kind of illegal word is rejected by the decoder, so its acceptance sets FIC alone; of what a step
can do to FID and FIC, only that touches FIC. -/
theorem illegalCommandIsRaisedByIllegalWordsAlone : Obligations.IllegalCommandIsRaisedByIllegalWordsAlone := by
  refine fun s hr => ⟨fun ha hw => ?_, fun t h hlegal => ?_⟩
  · obtain ⟨hop, hseg, hdp, hsend, hrender⟩ := illegalWordsAreRejectedByName s.inputs.cmd
    obtain h | h | ⟨ho, hm⟩ | ⟨ho, hm⟩ | ⟨ho, hm⟩ | ⟨ho, hm⟩ := hw
    · exact step_accepting_illegal ha (hop (.inl h))
    · exact step_accepting_illegal ha (hop (.inr h))
    · exact step_accepting_illegal ha (hseg ho hm)
    · exact step_accepting_illegal ha (hdp ho hm)
    · exact step_accepting_illegal ha (hsend ho hm)
    · exact step_accepting_illegal ha (hrender ho hm)
  · obtain ⟨_, hfic⟩ | ⟨_, _, _, rfl⟩ | ⟨e, ha, he, _⟩ := step_fid_fic hr h
    · exact hfic
    · rfl
    · obtain ⟨i, hi⟩ := legalWord_iff_decode_ok.1 (hlegal ha)
      simp [hi] at he

/-- Settles O21: each fault that a step raises leaves the other flag alone, and a SEG word with a reserved bit is an
illegal word. -/
theorem oneStepRaisesAtMostOneFault : Obligations.OneStepRaisesAtMostOneFault := by
  refine fun s t hr h => ⟨fun ⟨hfid, hfic⟩ => ?_, fun ha ho hm => ?_⟩
  · obtain ⟨hsame, _⟩ | ⟨_, _, _, rfl⟩ | ⟨_, _, _, rfl⟩ := step_fid_fic hr h
    · exact hfid hsame
    · exact hfic rfl
    · exact hfid rfl
  · obtain ⟨_, hseg, _⟩ := illegalWordsAreRejectedByName s.inputs.cmd
    rw [step_accepting_illegal ha (hseg ho hm)] at h
    cases h
    exact ⟨rfl, rfl⟩

/-! ### Every run completes, and its record of reads only grows (R109, R112) -/

/-- Any number of steps answers a next state, in which every read before them is still on record. -/
theorem runSteps_total (n : Nat) (s : State) : ∃ t, runSteps n s = .next t ∧ s.reads <+: t.reads := by
  induction n generalizing s with
  | zero => exact ⟨s, runSteps_zero s, List.prefix_rfl⟩
  | succ n ih =>
    obtain ⟨u, hstep, _, hreads⟩ := step_total s
    obtain ⟨t, hrun, hpre⟩ := ih u
    have hsu : s.reads <+: u.reads := hreads ▸ List.prefix_append _ _
    exact ⟨t, (runSteps_succ n hstep).trans hrun, hsu.trans hpre⟩

/-- Settles O29: no arm of a command and no branch of a step stops, and runs follow by induction. -/
theorem everyCommandStepAndRunCompletes : Obligations.EveryCommandStepAndRunCompletes :=
  ⟨fun i s => (exec_total i s).imp fun _ h => h.1, fun s => (step_total s).imp fun _ h => h.1,
    fun n s => (runSteps_total n s).imp fun _ h => h.1⟩

/-! ### Faulted states and the host error (R108, R135) -/

theorem State.hostErred_iff (s : State) : s.hostErred = true ↔ .noResult ∈ s.reads := by simp [State.hostErred]

theorem State.faulted_of_hostErred {s : State} (h : s.hostErred = true) : s.faulted = true := by
  rw [State.faulted, h, Bool.or_true]

theorem State.not_faulted_iff (s : State) :
    s.faulted = false ↔ s.fid = false ∧ s.fic = false ∧ .noResult ∉ s.reads := by
  simp [State.faulted, State.hostErred, and_assoc]

/-- Along a run the host error is never taken back, by no reset either (D8). -/
theorem hostErred_run {s : State} (h : s.hostErred = true) (n : Nat) :
    ∃ t, runSteps n s = .next t ∧ t.hostErred = true := by
  obtain ⟨t, hrun, hpre⟩ := runSteps_total n s
  exact ⟨t, hrun, t.hostErred_iff.2 (hpre.subset (s.hostErred_iff.1 h))⟩

/-- What a step that reads `result` while RV = 0 records. -/
theorem State.readValues_noResult {s : State} {i : Inputs} (hrv : s.rv = false) (hi : i.readResult = true) :
    s.readValues i = [.noResult] ++ if i.readStatus then [.status s.status] else [] := by
  rw [State.readValues, if_pos hi, State.resultRead_invalid hrv]

/-- Settles O28: the block does not see the read, which only joins the record, and there the host error stays. -/
theorem readOfInvalidResultIsAFault : Obligations.ReadOfInvalidResultIsAFault := by
  intro s i es hrv hi
  obtain ⟨t, hstep, _⟩ := step_total { s with env := { i with readResult := false } :: es }
  have hread : step { s with env := i :: es } = .next (t.withReads (s.reads ++ s.readValues i)) :=
    blockStep_withReads hstep (s.reads ++ s.readValues i)
  have hrecord := State.readValues_noResult hrv hi
  have herr : (t.withReads (s.reads ++ s.readValues i)).hostErred = true :=
    (State.hostErred_iff _).2 (List.mem_append_right _ (by simp [hrecord]))
  refine ⟨t, _, hstep, hread, by rw [State.withReads, hrecord, List.append_assoc], fun n => ?_⟩
  obtain ⟨v, hrun, hv⟩ := hostErred_run herr n
  exact ⟨v, hrun, hv, State.faulted_of_hostErred hv⟩

/-! ### Good runs (R135, D8) -/

theorem State.goodFinal_iff (s : State) :
    s.goodFinal = true ↔ s.runEnded = true ∧ s.faulted = false ∧ invalidReadToCome s.rv s.env = false := by
  simp [State.goodFinal, and_assoc]

/-- Where the run has ended, the run from there ends at once. -/
theorem endOfRun_of_ended {s : State} (h : s.runEnded = true) (n : Nat) : endOfRun n s = some s := by
  cases n <;> rw [endOfRun, if_pos h]

theorem endOfRun_succ {s t : State} (n : Nat) (hne : s.runEnded = false) (h : step s = .next t) :
    endOfRun (n + 1) s = endOfRun n t := by simp [endOfRun, hne, h]

/-- Everything a good run can be: it is at its end, a good final state, or it goes on from an unfaulted state. -/
theorem goodRun_cases {n : Nat} {s : State} (h : goodRun n s = true) :
    s.goodFinal = true ∨
    (∃ m t, n = m + 1 ∧ s.runEnded = false ∧ s.faulted = false ∧ step s = .next t ∧ goodRun m t = true) := by
  cases n with
  | zero => exact .inl h
  | succ m =>
    cases hended : s.runEnded with
    | true => exact .inl (by simpa [goodRun, hended] using h)
    | false =>
      obtain ⟨t, hstep, _⟩ := step_total s
      have hgo : s.faulted = false ∧ goodRun m t = true := by simpa [goodRun, hended, hstep] using h
      exact .inr ⟨m, t, rfl, rfl, hgo.1, hstep, hgo.2⟩

/-- No state of the run's first `m` steps is faulted. -/
def State.UnfaultedFor (m : Nat) (s : State) : Prop := ∀ j ≤ m, ∀ u, runSteps j s = .next u → u.faulted = false

theorem State.UnfaultedFor.zero {s : State} (h : s.faulted = false) : s.UnfaultedFor 0 := by
  intro j hj u hu
  obtain rfl : j = 0 := by omega
  obtain rfl : s = u := by simpa [runSteps_zero] using hu
  exact h

theorem State.UnfaultedFor.succ {s t : State} {m : Nat} (ht : t.UnfaultedFor m) (h : s.faulted = false)
    (hstep : step s = .next t) : s.UnfaultedFor (m + 1) := by
  intro j hj u hu
  cases j with
  | zero => exact UnfaultedFor.zero h 0 le_rfl u hu
  | succ j => exact ht j (by omega) u (runSteps_succ j hstep ▸ hu)

/-- A good run comes to its end, a good final state, through unfaulted states only. -/
theorem goodRun_end {n : Nat} {s : State} (h : goodRun n s = true) :
    ∃ t m, m ≤ n ∧ endOfRun n s = some t ∧ runSteps m s = .next t ∧ t.goodFinal = true ∧ s.UnfaultedFor m := by
  induction n using Nat.strongRecOn generalizing s with
  | ind n ih =>
    obtain hgood | ⟨n, u, rfl, hne, hs, hstep, hgo⟩ := goodRun_cases h
    · obtain ⟨hended, hs, _⟩ := s.goodFinal_iff.1 hgood
      exact ⟨s, 0, n.zero_le, endOfRun_of_ended hended n, runSteps_zero s, hgood, .zero hs⟩
    · obtain ⟨t, m, hm, hend, hrun, hgood, hu⟩ := ih n n.lt_succ_self hgo
      exact ⟨t, m + 1, by omega, (endOfRun_succ n hne hstep).trans hend, (runSteps_succ m hstep).trans hrun, hgood,
        hu.succ hs hstep⟩

/-- Settles O56: the run's end by `goodRun_end`, where each unfaulted state has no flag set and no host error. -/
theorem faultedStatesMakeTheRunBad : Obligations.FaultedStatesMakeTheRunBad := by
  intro n s h
  obtain ⟨t, m, hm, hend, hrun, hgood, hu⟩ := goodRun_end h
  exact ⟨t, m, hm, hend, hrun, hgood, fun j hj u hju => u.not_faulted_iff.1 (hu j hj u hju)⟩

end Sys2Proof.Machine
end

section
/-! The statements on reset and hazards (70_reset_and_hazards.md): the reset step, how soon a busy block is in IDLE and
takes a held offer, where a run ends, and what the steps after its end keep. -/

namespace Sys2Proof.Machine

/-! ### The reset step (R34, R122) -/

theorem step_reset {s : State} (hr : s.inputs.rst = true) : step s = .next s.takeInputs.applyReset :=
  blockStep_reset s.takeInputs hr

/-- Settles O23: `step_reset`, with the fields of `State.applyReset` written out. -/
theorem resetStepGivesTheResetValues : Obligations.ResetStepGivesTheResetValues := by
  intro s hr
  rw [step_reset hr]
  rfl

/-! ### How soon a busy block is in IDLE (R134, R130) -/

/-- An undisturbed block takes the steps it has left, also from a settle hold of a SEND, which no run reaches: one step
leads out of it, and from there `busy_run` applies. -/
theorem run_stepsLeft {n : Nat} {s : State} (hn : n ≤ stepsLeft s) (hu : s.undisturbed n = true) :
    ∃ t, runSteps n s = .next t ∧ stepsLeft t + n = stepsLeft s := by
  cases n with
  | zero => exact ⟨s, runSteps_zero s, rfl⟩
  | succ n =>
    have hp : s.phase ≠ .idle := fun h => by rw [(stepsLeft_eq_zero_iff s).2 h] at hn; omega
    have hleft : stepsLeft (sequencerStep s.takeInputs) + 1 = stepsLeft s :=
      stepsLeft_sequencerStep (s := s.takeInputs) hp
    obtain ⟨_, _, _, _, _, _, _, _, henv, _⟩ := sequencerStep_frame s.takeInputs
    obtain ⟨t, hrun, hcount, _⟩ := busy_run (sequencerStep_settle_mode _) (by omega) (undisturbed_tail hu henv)
    exact ⟨t, (runSteps_succ n (step_busy (undisturbed_succ hu) hp)).trans hrun, by omega⟩

/-- After the steps it has left, an undisturbed block is in IDLE. -/
theorem run_stepsLeft_idle {s : State} (hu : s.undisturbed (stepsLeft s) = true) :
    ∃ t, runSteps (stepsLeft s) s = .next t ∧ t.phase = .idle := by
  obtain ⟨t, hrun, hcount⟩ := run_stepsLeft le_rfl hu
  exact ⟨t, hrun, (stepsLeft_eq_zero_iff t).1 (by omega)⟩

/-- Settles O48: the number of steps is `stepsLeft`, at most 204 in every state. -/
theorem busyBlockReachesIdle : Obligations.BusyBlockReachesIdle := fun s hu =>
  ⟨stepsLeft s, stepsLeft_le s, run_stepsLeft_idle (undisturbed_mono (stepsLeft_le s) hu)⟩

/-! ### A held offer (R117, R129, R130) -/

/-- The inputs a run comes to are those of its schedule at its length. -/
theorem runSteps_inputs {n : Nat} {s t : State} (h : runSteps n s = .next t) (hn : n < s.env.length) :
    t.inputs = s.env[n] :=
  State.inputs_cons ((runSteps_env h).trans (List.drop_eq_getElem_cons hn))

theorem State.acceptsWord_of_idle {s : State} (hp : s.phase = .idle) (hr : s.inputs.rst = false)
    (hv : s.inputs.cmdValid = true) : s.acceptsWord = true := by
  simp [State.acceptsWord, hv, s.cmdReady_iff.2 ⟨hp, hr⟩]

/-- Settles O49: the block is in IDLE after `stepsLeft` steps, at most 204, and the input after them still holds the
offer, which it accepts. -/
theorem heldOfferIsAcceptedWithinOneRender : Obligations.HeldOfferIsAcceptedWithinOneRender := by
  intro s w hlen hu hheld
  have hle := stepsLeft_le s
  obtain ⟨t, hrun, hidle⟩ := run_stepsLeft_idle (undisturbed_mono (by omega) hu)
  have hmem : t.inputs ∈ s.env.take 205 :=
    List.mem_take_iff_getElem.2 ⟨stepsLeft s, by omega, (runSteps_inputs hrun (by omega)).symm⟩
  obtain ⟨hvalid, hcmd⟩ := hheld _ hmem
  have hrst : t.inputs.rst = false := undisturbed_last (undisturbed_mono (by omega) hu) hrun
  have hacc := State.acceptsWord_of_idle hidle hrst hvalid
  exact ⟨stepsLeft s, hle, t, hrun, hacc, hcmd, hcmd ▸ step_accepting hacc⟩

/-! ### Where a run ends (R135) -/

theorem State.runEnded_iff (s : State) :
    s.runEnded = true ↔ s.phase = .idle ∧ ∀ i ∈ s.env, i.cmdValid = false := by
  simp [State.runEnded]

/-- The run from `s` comes to its end, `t`, with its `m`-th step and not before. -/
def State.EndsAfter (m : Nat) (s t : State) : Prop :=
  runSteps m s = .next t ∧ t.runEnded = true ∧ ∀ j < m, ∀ u, runSteps j s = .next u → ¬ u.runEnded = true

/-- Where the run has ended, it ends after no step. -/
theorem State.endsAfter_of_ended {m : Nat} {s t : State} (h : s.runEnded = true) :
    s.EndsAfter m t ↔ m = 0 ∧ s = t := by
  constructor
  · rintro ⟨hrun, _, hbefore⟩
    obtain rfl : m = 0 := Nat.eq_zero_of_not_pos fun hm => hbefore 0 hm s (runSteps_zero s) h
    exact ⟨rfl, Host.Outcome.next.inj hrun⟩
  · rintro ⟨rfl, rfl⟩
    exact ⟨runSteps_zero s, h, nofun⟩

theorem State.not_endsAfter_zero {s t : State} (h : s.runEnded = false) : ¬ s.EndsAfter 0 t := by
  rintro ⟨hrun, ht, _⟩
  obtain rfl : s = t := Host.Outcome.next.inj hrun
  simp [h] at ht

/-- Where the run has not ended, it ends one step after it ends from the next state. -/
theorem State.endsAfter_succ {m : Nat} {s t u : State} (hne : s.runEnded = false) (hstep : step s = .next u) :
    s.EndsAfter (m + 1) t ↔ u.EndsAfter m t := by
  unfold State.EndsAfter
  rw [runSteps_succ m hstep]
  refine and_congr_right fun _ => and_congr_right fun _ => ⟨fun h j hj v hv => ?_, fun h j hj v hv => ?_⟩
  · exact h (j + 1) (by omega) v ((runSteps_succ j hstep).trans hv)
  · cases j with
    | zero =>
      obtain rfl : s = v := Host.Outcome.next.inj hv
      simp [hne]
    | succ j => exact h j (by omega) v (runSteps_succ j hstep ▸ hv)

/-- `endOfRun` finds the first ended state. -/
theorem endOfRun_eq_some_iff {n : Nat} {s t : State} :
    endOfRun n s = some t ↔ ∃ m ≤ n, s.EndsAfter m t := by
  induction n generalizing s with
  | zero =>
    cases h : s.runEnded with
    | true => simp [endOfRun_of_ended h, State.endsAfter_of_ended h]
    | false => simp [endOfRun, h, State.not_endsAfter_zero h]
  | succ n ih =>
    cases h : s.runEnded with
    | true => simp [endOfRun_of_ended h, State.endsAfter_of_ended h]
    | false =>
      obtain ⟨u, hstep, _⟩ := step_total s
      rw [endOfRun_succ n h hstep, ih]
      constructor
      · rintro ⟨m, hm, hends⟩
        exact ⟨m + 1, by omega, (State.endsAfter_succ h hstep).2 hends⟩
      · rintro ⟨_ | m, hm, hends⟩
        · exact absurd hends (State.not_endsAfter_zero h)
        · exact ⟨m, by omega, (State.endsAfter_succ h hstep).1 hends⟩

/-- Settles O53: `endOfRun_eq_some_iff`, with the ended states written out. -/
theorem endOfRunIsTheFirstEndedState : Obligations.EndOfRunIsTheFirstEndedState := by
  intro n s t
  simp only [endOfRun_eq_some_iff, State.EndsAfter, State.runEnded_iff]

/-! ### After the end of a run (R135, R92) -/

/-- Where the run has ended, the coming input offers nothing, past the end of the schedule either. -/
theorem State.runEnded_inputs {s : State} (h : s.runEnded = true) : s.inputs.cmdValid = false := by
  obtain ⟨_, hnone⟩ := s.runEnded_iff.1 h
  cases henv : s.env with
  | nil => rw [State.inputs_nil henv]
  | cons i es => rw [State.inputs_cons henv]; exact hnone i (by simp [henv])

/-- Where the run has ended, a step is a reset or the host's side alone. -/
theorem step_ended_cases {s t : State} (hended : s.runEnded = true) (h : step s = .next t) :
    (s.inputs.rst = true ∧ t = s.takeInputs.applyReset) ∨ (s.inputs.rst = false ∧ t = s.takeInputs) := by
  obtain hreset | ⟨hr, _, _, rfl⟩ | ⟨_, _, hv, _⟩ | ⟨_, hp, _⟩ := step_next_cases h
  · exact .inl hreset
  · exact .inr ⟨hr, rfl⟩
  · simp [State.runEnded_inputs hended] at hv
  · exact absurd (s.runEnded_iff.1 hended).1 hp

/-- No step leads out of the end of a run: the phase stays IDLE and the rest of the schedule offers nothing. -/
theorem runEnded_step {s t : State} (hended : s.runEnded = true) (h : step s = .next t) : t.runEnded = true := by
  obtain ⟨hp, hnone⟩ := s.runEnded_iff.1 hended
  have hrest : ∀ i ∈ s.env.tail, i.cmdValid = false := fun i hi => hnone i (List.mem_of_mem_tail hi)
  obtain ⟨_, rfl⟩ | ⟨_, rfl⟩ := step_ended_cases hended h
  · exact (State.runEnded_iff _).2 ⟨rfl, hrest⟩
  · exact (State.runEnded_iff _).2 ⟨hp, hrest⟩

/-- Settles O54: by `step_ended_cases` a step that is no reset changes the host's side alone, which is not observed. -/
theorem endedRunKeepsItsObservation : Obligations.EndedRunKeepsItsObservation := by
  refine fun s t hended h => ⟨runEnded_step hended h, fun hr => ?_⟩
  obtain ⟨hr', _⟩ | ⟨_, rfl⟩ := step_ended_cases hended h
  · simp [hr] at hr'
  · rfl

/-! ### Good final states (R112, R108, R135) -/

/-- With no invalid read to come, the coming step reads `result` only while RV = 1, and the inputs after it hold no
invalid read, given what the step leaves of RV. -/
theorem State.no_invalidReadToCome {s : State} (h : invalidReadToCome s.rv s.env = false) :
    (s.inputs.readResult = true → s.rv = true) ∧
      invalidReadToCome (s.rv && !s.inputs.rst) s.env.tail = false := by
  cases henv : s.env with
  | nil => simp [State.inputs_nil henv, invalidReadToCome]
  | cons i es => simpa [State.inputs_cons henv, henv, invalidReadToCome] using h

/-- A read of `result` only while RV = 1 is no host error. -/
theorem State.noResult_not_mem_readValues {s : State} {i : Inputs} (h : i.readResult = true → s.rv = true) :
    .noResult ∉ s.readValues i := by
  cases hi : i.readResult with
  | false => simp [State.readValues, hi]
  | true => simp [State.readValues, hi, State.resultRead_valid (h hi)]

/-- The host's side of a step from a good final state puts no host error on record. -/
theorem State.goodFinal_takeInputs_reads {s : State} (h : s.goodFinal = true) :
    .noResult ∉ s.takeInputs.reads := by
  obtain ⟨_, hunfaulted, hcome⟩ := s.goodFinal_iff.1 h
  obtain ⟨_, _, hreads⟩ := s.not_faulted_iff.1 hunfaulted
  obtain ⟨hvalid, _⟩ := State.no_invalidReadToCome hcome
  exact fun hmem => (List.mem_append.1 hmem).elim hreads (State.noResult_not_mem_readValues hvalid)

/-- A step from a good final state raises no fault and leaves no invalid read to come, a reset, which clears RV,
included. -/
theorem goodFinal_step {s t : State} (hgood : s.goodFinal = true) (h : step s = .next t) : t.goodFinal = true := by
  obtain ⟨hended, hunfaulted, hcome⟩ := s.goodFinal_iff.1 hgood
  obtain ⟨hfid, hfic, _⟩ := s.not_faulted_iff.1 hunfaulted
  obtain ⟨_, hrest⟩ := State.no_invalidReadToCome hcome
  have hreads := State.goodFinal_takeInputs_reads hgood
  refine t.goodFinal_iff.2 ⟨runEnded_step hended h, ?_⟩
  obtain ⟨hr, rfl⟩ | ⟨hr, rfl⟩ := step_ended_cases hended h
  · exact ⟨(State.not_faulted_iff _).2 ⟨rfl, rfl, hreads⟩, by simpa [hr] using hrest⟩
  · exact ⟨(State.not_faulted_iff _).2 ⟨hfid, hfic, hreads⟩, by simpa [hr] using hrest⟩

theorem goodFinal_run {s : State} (h : s.goodFinal = true) (n : Nat) :
    ∃ t, runSteps n s = .next t ∧ t.goodFinal = true := by
  induction n generalizing s with
  | zero => exact ⟨s, runSteps_zero s, h⟩
  | succ n ih =>
    obtain ⟨u, hstep, _⟩ := step_total s
    obtain ⟨t, hrun, hgood⟩ := ih (goodFinal_step h hstep)
    exact ⟨t, (runSteps_succ n hstep).trans hrun, hgood⟩

/-- Settles O55: the parts of a good final state by name, and its runs by `goodFinal_run`. -/
theorem goodFinalStatesStayGoodAndNeverStop : Obligations.GoodFinalStatesStayGoodAndNeverStop := by
  intro s h
  obtain ⟨hended, hunfaulted, _⟩ := s.goodFinal_iff.1 h
  obtain ⟨hp, hnone⟩ := s.runEnded_iff.1 hended
  exact ⟨⟨hp, hnone, s.not_faulted_iff.1 hunfaulted⟩, goodFinal_run h⟩

end Sys2Proof.Machine
end

section
/-! The worked words of 95_test_vectors.md: each legal one is the encoding of its command, and each illegal one is of a
kind that the decoder rejects. -/

namespace Sys2Proof

theorem decode_of_encode_eq {w : Word} {i : Instr} (h : encode i = w) : decode w = .ok i :=
  h ▸ decodeOfEncodeIsTheCommand i

/-- Settles O5: the legal words are the encodings of the named commands, and the illegal ones have an illegal opcode
or a set reserved bit. -/
theorem workedWordsDecodeAsWritten : Obligations.WorkedWordsDecodeAsWritten := by
  obtain ⟨hopcode, _⟩ := illegalWordsAreRejectedByName 0x00000000
  obtain ⟨_, hseg, _⟩ := illegalWordsAreRejectedByName 0x1000001A
  obtain ⟨_, _, _, _, hrender⟩ := illegalWordsAreRejectedByName 0x40080000
  refine ⟨?seg7, ?seg10, ?dp, ?send, ?renderPoint, ?renderNoPoint, ?opcode, ?segReserved, ?renderReserved⟩
  case opcode => exact hopcode (.inl (by decide))
  case segReserved => exact hseg (by decide) (by decide)
  case renderReserved => exact hrender (by decide) (by decide)
  all_goals exact decode_of_encode_eq (by decide)

end Sys2Proof
end
